-- ==== Sys2Proof/Word.lean ====
section
/-! DEFINITION. The words of the part: bytes of both lines, and the count of the tick counter. -/

namespace Sys2Proof

/-- A byte of the workstation link or of the counter bus (R181, R131). -/
abbrev Byte := BitVec 8

/-- A count of the tick counter, 0..2³² − 1, which wraps (R91). -/
abbrev Tick := BitVec 32

/-- A code of a current-sense input, 0..1023 (R149). -/
abbrev SenseCode := BitVec 10

/-- A text: a list of character codes (00_scope section 4, R192). -/
abbrev Text := List Byte

/-- A list of decimal digits, each the number it stands for (R81, R192). -/
abbrev Digits := List Nat

/-- A station 1..8, held as its number less one (00_scope section 4). -/
abbrev Station := Fin 8

/-- A device address 1..16, held as its number less one (00_scope section 4). -/
abbrev Port := Fin 16

end Sys2Proof
end

