-- ==== Sys2Proof/Syntax.lean ====
section
/-! DEFINITION. The commands of the block: one constructor for each row of spec/opcode_table.json. -/

namespace Sys2Proof

/-- One byte as the link's receiver finds it: its value, and whether its stop bit was good (R181). -/
structure LineByte where
  data : Byte
  framed : Bool
  deriving DecidableEq, Repr

/-- The levels of the two rate-strap pins, high or not (R181). -/
structure Straps where
  first : Bool
  second : Bool
  deriving DecidableEq, Repr

/-- A row of the table, with its operands. A command row carries the sequence and the payload of the frame that the
command unit takes (R182, R187); an answer row carries the answer frame as the bus scheduler receives it (R135). -/
inductive Instr where
  | openSession (sequence : Byte) (payload : List Byte)
  | cancelSession (sequence : Byte) (payload : List Byte)
  | extendStep (sequence : Byte) (payload : List Byte)
  | policyLoad (sequence : Byte) (payload : List Byte)
  | policyDrop (sequence : Byte) (payload : List Byte)
  | policyList (sequence : Byte) (payload : List Byte)
  | defaultPolicy (sequence : Byte) (payload : List Byte)
  | setDate (sequence : Byte) (payload : List Byte)
  | deviceInfo (sequence : Byte) (payload : List Byte)
  | deviceRelease (sequence : Byte) (payload : List Byte)
  | directExchange (sequence : Byte) (payload : List Byte)
  | supplyOff (sequence : Byte) (payload : List Byte)
  | supplyRestore (sequence : Byte) (payload : List Byte)
  | dozeCounter (sequence : Byte) (payload : List Byte)
  | openCounter (sequence : Byte) (payload : List Byte)
  | closeCounter (sequence : Byte) (payload : List Byte)
  | settings (sequence : Byte) (payload : List Byte)
  | idleText (sequence : Byte) (payload : List Byte)
  | status (sequence : Byte) (payload : List Byte)
  | resetHub (sequence : Byte) (payload : List Byte)
  | unknownCommandKind (kind sequence : Byte) (payload : List Byte)
  | receiveFrame (bytes : List LineByte)
  | frameTimeout
  | ctsChange (on : Bool)
  | frameSent
  | powerOnReset (straps : Straps)
  | resetInput (straps : Straps)
  | supplySample (station : Station) (code : SenseCode)
  | trialPassed (station : Station)
  | cooled (station : Station)
  | supplyCleanPeriod (station : Station)
  | stepDeadline (station : Station)
  | warnDeadline (station : Station)
  | keyDeadline (station : Station)
  | restartWindow (port : Port)
  | deviceCleanPeriod (port : Port)
  | supervisionExpired
  | settled
  | startCap
  | busArbitrate
  | resetDeviceSent
  | exchangeMiss
  | probeAnswer (frame : List Byte)
  | identifyAnswer (frame : List Byte)
  | configureAnswer (frame : List Byte)
  | pollAnswer (frame : List Byte)
  | diagAnswer (frame : List Byte)
  deriving DecidableEq, Repr

/-- The kind byte of a command row's frame (section 11.3), for the rows that take one of the twenty commands. -/
def Instr.kindByte : Instr → Option Byte
  | .openSession .. => some 0x01
  | .cancelSession .. => some 0x02
  | .extendStep .. => some 0x03
  | .policyLoad .. => some 0x04
  | .policyDrop .. => some 0x05
  | .policyList .. => some 0x06
  | .defaultPolicy .. => some 0x07
  | .setDate .. => some 0x08
  | .deviceInfo .. => some 0x09
  | .deviceRelease .. => some 0x0A
  | .directExchange .. => some 0x0B
  | .supplyOff .. => some 0x0C
  | .supplyRestore .. => some 0x0D
  | .dozeCounter .. => some 0x0E
  | .openCounter .. => some 0x0F
  | .closeCounter .. => some 0x10
  | .settings .. => some 0x11
  | .idleText .. => some 0x12
  | .status .. => some 0x13
  | .resetHub .. => some 0x14
  | .unknownCommandKind k _ _ => some k
  | .receiveFrame _ | .frameTimeout | .ctsChange _ | .frameSent | .powerOnReset _ | .resetInput _
  | .supplySample _ _ | .trialPassed _ | .cooled _ | .supplyCleanPeriod _ | .stepDeadline _ | .warnDeadline _
  | .keyDeadline _ | .restartWindow _ | .deviceCleanPeriod _ | .supervisionExpired | .settled | .startCap
  | .busArbitrate | .resetDeviceSent | .exchangeMiss | .probeAnswer _ | .identifyAnswer _ | .configureAnswer _
  | .pollAnswer _ | .diagAnswer _ => none

end Sys2Proof
end

