-- ==== Sys2Proof/Decode.lean ====
section
/-! DEFINITION. The words that spell a command. No row of spec/opcode_table.json gives bits (every row's fields are
empty), so no word spells one. The byte forms of the link's and the bus's messages are in Machine/Layout.lean and
Machine/Operands.lean. -/

namespace Sys2Proof

/-- The command a word spells: none, since no row of the table has bits. -/
def decodeTableWord (_nbits _w : Nat) : Option Instr := none

end Sys2Proof
end

