-- ==== Sys2Proof/Config.lean ====
section
/-! DEFINITION. What the part fixes (capacities and periods the rules give as numbers) and its free values. -/

namespace Sys2Proof.Config

/-- Frames the intake holds (R184). -/
def intakeCapacity : Nat := 8
/-- The intake count at whose append HOLD is made pending (R185). -/
def holdCount : Nat := 6
/-- The intake count at whose taking GO is made pending (R185). -/
def goCount : Nat := 2
/-- Replies that may stand while the command unit still takes: fewer than this (R186). -/
def replyLimit : Nat := 8
/-- Payload bytes of a link frame at most (R182). -/
def maxPayload : Nat := 241
/-- Milliseconds a frame may take from its start byte (R183). -/
def frameLimit : Nat := 20
/-- Bytes that an answer frame can hold on the counter bus in the 12 ms window at 115,200 baud (R131, R136; log 7). -/
def maxAnswer : Nat := 138
/-- Entries of the policy table at most (R81). -/
def policyCapacity : Nat := 32
/-- Budget of EXTEND-STEP for one step, in tenths (R104). -/
def extensionBudget : Nat := 600
/-- Ticks in a tenth of a second (R92). -/
def ticksPerTenth : Nat := 100
/-- Ticks in a second (R92). -/
def ticksPerSecond : Nat := 1000
/-- The restart window, 3 s (R114). -/
def restartWindow : Nat := 3000
/-- The clean period of a device and of a supply, 600 s (R116, R155). -/
def cleanPeriod : Nat := 600000
/-- The trial of a supply, 200 ms (R153). -/
def trialTime : Nat := 200
/-- The cool-down of a supply, 5 s (R152). -/
def coolTime : Nat := 5000
/-- Over samples in a row that trip a supply (R151). -/
def overLimit : Nat := 3
/-- Trips that lock a supply (R152). -/
def tripLimit : Nat := 3
/-- The first supervision period of STARTING, 30 s (R164). -/
def firstSupervision : Nat := 30000
/-- The cap on STARTING, 20 s (R164). -/
def startCap : Nat := 20000
/-- Misses in a row that restart a joined device (R111). -/
def missLimit : Nat := 3
/-- The settle times that the settle select chooses from, in ms (R174). -/
def settleTimes : List Nat := [0, 10, 20, 50, 100, 200, 500, 1000]

/-- FREE VALUE (log 13): whether a keypad's identity states concealed entry when its yes-or-no byte is neither
0 nor 1. R192 gives the coding 1 and 0 alone, and R193 does not make the answer a miss. -/
opaque unstatedYesNo : Byte → Bool

/-- FREE VALUE (log 21): the prefix byte at a place, counted from 0, beyond the count of a policy record that the part
sends. Section 11.4 says only that such a byte is ignored. -/
opaque unusedPrefixByte : Nat → Byte

/-- FREE VALUE (log 32): bits 1 to 7 of the flags byte of a reply, which R192 and section 11.2 assign to nothing. -/
opaque unassignedReplyBits : Byte

/-- FREE VALUE (log 32): bits 2 to 7 of the flags byte of a request, which section 11.6 assigns to nothing. -/
opaque unassignedRequestBits : Byte

/-- FREE VALUE (log 32): bits 4 to 7 of the status byte that DEVICE-INFO carries, which section 11.6 assigns to
nothing. -/
opaque unassignedStatusBits : Byte

/-- FREE VALUE (log 22): the month byte of an absent business month. R192 gives the year alone, 0xFF. -/
opaque absentMonth : Byte

end Sys2Proof.Config
end

