-- ==== Sys2Proof/Machine/State.lean ====
section
/-! DEFINITION. All the state the spec gives the part, as plain data, and the part right after reset. -/

namespace Sys2Proof.Machine

/-! ### Sessions (chapters 01 to 03) -/

/-- The state of a session record (R1). -/
inductive SessionState where
  | idle | running | ending
  deriving DecidableEq, Repr

/-- The progress mode of a session (R3). -/
inductive ProgressMode where
  | off | phases | all
  deriving DecidableEq, Repr

/-- The phase of the current step (R1). -/
inductive Phase where
  | starting | waitingClear | active | delivering
  deriving DecidableEq, Repr

/-- The mode of an ENTRY step (R3). -/
inductive EntryMode where
  | plain | concealed
  deriving DecidableEq, Repr

/-- The kind of a step with the fields of its kind (R3). Times are in tenths. -/
inductive StepKind where
  | card (attempts stepTime : Nat)
  | entry (mode : EntryMode) (minDigits maxDigits : Nat) (boundsFromCard : Bool) (firstKey interKey stepTime : Nat)
  | confirm (stepTime : Nat)
  | showText (holdTime : Nat)
  deriving DecidableEq, Repr

/-- A step record (R3). -/
structure StepRecord where
  prompt : Text
  kind : StepKind
  deriving DecidableEq, Repr

/-- The causes of the end of a session, in the order of R29. -/
inductive EndCause where
  | completed | timedOut | cancelledCustomer | cancelledWorkstation | deviceLost | workstationLost | readFailed
  | cardRefused | policyConflict
  deriving DecidableEq, Repr

/-- The reasons of a refused card (R28). -/
inductive RefusalReason where
  | onPrefix | onLength | onCheckDigit | expired
  deriving DecidableEq, Repr

/-- The record of an accepted card (R76). `matched` is empty for the default policy. -/
structure CardRecord where
  account : Digits
  year : Nat
  month : Nat
  service : Digits
  discretionary : Digits
  checkVerified : Bool
  expiryChecked : Bool
  matched : Digits
  deriving DecidableEq, Repr

/-- The fields of a policy apart from its prefix (R79, R80). -/
structure Policy where
  accept : Bool
  accountMin : Nat
  accountMax : Nat
  checkRequired : Bool
  expiryRequired : Bool
  concealedMin : Nat
  concealedMax : Nat
  deriving DecidableEq, Repr

/-- A policy entry (R79), and the policy copy of a session, whose key is empty for the default policy (R77). -/
structure PolicyEntry where
  key : Digits
  policy : Policy
  deriving DecidableEq, Repr

/-- The year and the month against which expiry is judged (R88). -/
structure BusinessMonth where
  year : Nat
  month : Nat
  deriving DecidableEq, Repr

/-- A sealed block with the digit count the keypad gave for it (R1). -/
structure SealedBlock where
  count : Nat
  block : List Byte
  deriving DecidableEq, Repr

/-- The data of a STEP-RESULT by kind and outcome (R28); cardRefused alone has the outcome REFUSED. -/
inductive ResultData where
  | cardOk (record : CardRecord) (policyKey : Digits)
  | cardRefused (reason : RefusalReason)
  | entryPlain (digits : Digits)
  | entryConcealed (count : Nat) (block : List Byte)
  | confirmOk
  | showOk
  deriving DecidableEq, Repr

/-- A STEP-RESULT (R28). -/
structure StepResult where
  station : Station
  tag : Nat
  index : Nat
  data : ResultData
  deriving DecidableEq, Repr

/-- The classes of device commands (R122). -/
inductive CommandClass where
  | text | beep | conceal | intake | power
  deriving DecidableEq, Repr

/-- A command a session waits on: the device and the class in its queue (R10, R21). -/
structure Wait where
  port : Port
  cls : CommandClass
  deriving DecidableEq, Repr

/-- A session record (R1), with the fields of R39 and R60. `cardRefused`, `waits` and `serial` are implied by R17,
by R10 and R21, and by R122 (log 12). -/
structure Session where
  state : SessionState
  tag : Option Nat
  mode : Option ProgressMode
  steps : List StepRecord
  index : Option Nat
  phase : Option Phase
  entryBuffer : Digits
  concealedCount : Nat
  sealedBlock : Option SealedBlock
  attemptsUsed : Nat
  cardRecord : Option CardRecord
  policyCopy : Option PolicyEntry
  extension : Nat
  warned : Bool
  readerIntake : Bool
  concealedOpen : Bool
  endCause : Option EndCause
  deferredCause : Option EndCause
  pendingResult : Option StepResult
  lastTag : Option Nat
  lastCause : Option EndCause
  firstKeyTaken : Bool
  retryWait : Bool
  cardRefused : Bool
  waits : List Wait
  serial : Nat
  deriving DecidableEq, Repr

/-- A session record after any reset (R1). -/
def Session.blank : Session where
  state := .idle
  tag := none
  mode := none
  steps := []
  index := none
  phase := none
  entryBuffer := []
  concealedCount := 0
  sealedBlock := none
  attemptsUsed := 0
  cardRecord := none
  policyCopy := none
  extension := 0
  warned := false
  readerIntake := false
  concealedOpen := false
  endCause := none
  deferredCause := none
  pendingResult := none
  lastTag := none
  lastCause := none
  firstKeyTaken := false
  retryWait := false
  cardRefused := false
  waits := []
  serial := 0

/-! ### Devices and the counter bus (chapters 06 and 07) -/

/-- The expected kind of a device (R107). -/
inductive DeviceKind where
  | reader | keypad
  deriving DecidableEq, Repr

/-- The port states, in the order of section 6.2. -/
inductive PortState where
  | unpowered | absent | joining | ready | engaged | dozing | restarting | held
  deriving DecidableEq, Repr

/-- The two beeps (R42). -/
inductive BeepKind where
  | error | warn
  deriving DecidableEq, Repr

/-- The device commands (R122). -/
inductive DeviceCommand where
  | showText (text : Text)
  | beep (kind : BeepKind)
  | concealBegin (lower upper : Nat)
  | concealEnd
  | intakeOn
  | intakeOff
  | doze
  | wake
  deriving DecidableEq, Repr

/-- What a session queued a command for: a setup command of R9, a wind-down command of R20, or one it does not wait on. -/
inductive Purpose where
  | setup | windDown | other
  deriving DecidableEq, Repr

/-- The requester of a device command (R122): a particular session of a station, the counter controller, or the port
manager. -/
inductive Requester where
  | session (station : Station) (serial : Nat) (purpose : Purpose)
  | counter
  | ports
  deriving DecidableEq, Repr

/-- A command in a device command queue (R122). -/
structure Queued where
  command : DeviceCommand
  requester : Requester
  deriving DecidableEq, Repr

/-- The identity a device states (R107, R109). The kind byte is kept as it came (R193). -/
structure Identity where
  kind : Byte
  model : BitVec 16
  firmware : Byte
  concealed : Bool
  deriving DecidableEq, Repr

/-- A device's status (R135): awake or dozing, card present, the keys held. -/
structure DeviceStatus where
  awake : Bool
  cardPresent : Bool
  keysHeld : List Byte
  deriving DecidableEq, Repr

/-- The kinds of TRACK-ERROR, in the order of R55. -/
inductive TrackError where
  | noData | format | overlong | withdrawn
  deriving DecidableEq, Repr

/-- The last fault of a device (R107). -/
inductive LastFault where
  | device (code : Byte)
  | track (kind : TrackError)
  | misses
  | protocol
  deriving DecidableEq, Repr

/-- Why a device is HELD (R107). -/
inductive HeldReason where
  | restartLimit | wrongKind
  deriving DecidableEq, Repr

/-- A device record (R107). The address and the expected kind are those of its index. -/
structure Device where
  state : PortState
  restartCount : Nat
  missRun : Nat
  identity : Option Identity
  status : Option DeviceStatus
  batchToggle : Bool
  commandToggle : Bool
  queue : List Queued
  inCarriage : Bool
  follower : Option Queued
  heldReason : Option HeldReason
  lastFault : Option LastFault
  deriving DecidableEq, Repr

/-- A device record after a power-on reset (R107). -/
def Device.blank : Device where
  state := .unpowered
  restartCount := 0
  missRun := 0
  identity := none
  status := none
  batchToggle := false
  commandToggle := false
  queue := []
  inCarriage := false
  follower := none
  heldReason := none
  lastFault := none

/-- The request kinds, in the order of section 11.6. -/
inductive Request where
  | probe | identify | configure | poll | resetDevice | diag
  deriving DecidableEq, Repr

/-- A request the port manager has asked for and the bus still owes (R134, R147). -/
inductive Owed where
  | identify | configure | resetDevice
  deriving DecidableEq, Repr

/-- What the bus scheduler holds for a device that is addressed (chapter 07): the tick at which it falls due, or the
mark that it is due now, with the ticks for which it has been due, by which R144 tells the device due first (log 25). -/
inductive Due where
  | next (tick : Tick)
  | now (waited : Nat)
  deriving DecidableEq, Repr

/-- A DIRECT-EXCHANGE that waits for the bus (R145). -/
structure Direct where
  port : Port
  payload : List Byte
  sequence : Byte
  deriving DecidableEq, Repr

/-- The exchange in flight (R131): the address, the request, the command carried with its command toggle, the choice a
CONFIGURE carries (R109), the sequence to answer when it is the direct exchange, and the bytes of the request frame. -/
structure Flight where
  port : Port
  request : Request
  carried : Option (DeviceCommand × Bool)
  doze : Bool
  direct : Option Byte
  bytes : List Byte
  deriving DecidableEq, Repr

/-! ### Deadlines (chapter 05) -/

/-- The owners of deadline entries (R93). -/
inductive Owner where
  | session (station : Station)
  | device (port : Port)
  | supply (station : Station)
  | counter
  deriving DecidableEq, Repr

/-- The kinds of deadline entries (R93). -/
inductive DeadlineKind where
  | step | warn | key | device | supply | supervision | settle
  deriving DecidableEq, Repr

/-- An entry of the deadline list (R93). -/
structure Entry where
  owner : Owner
  kind : DeadlineKind
  deadline : Tick
  deriving DecidableEq, Repr

/-! ### Supplies (chapter 08) -/

/-- The states of a station supply (section 8.1). -/
inductive SupplyState where
  | off | trial | on | cooling | locked
  deriving DecidableEq, Repr

/-- A supply record (R148). -/
structure Supply where
  state : SupplyState
  tripCount : Nat
  overRun : Nat
  draw : Bool
  lastSample : Option SenseCode
  heldOff : Bool
  deriving DecidableEq, Repr

/-- A supply record after a power-on reset (R148). -/
def Supply.blank : Supply where
  state := .off
  tripCount := 0
  overRun := 0
  draw := false
  lastSample := none
  heldOff := false

/-! ### The counter (chapter 09) -/

/-- The counter states, in the order of R162; `opened` is OPEN. -/
inductive CounterState where
  | starting | opened | waking | lull | closed | orphaned
  deriving DecidableEq, Repr

/-- The four flags of a station's wake mask (R162). -/
structure WakeFlags where
  card : Bool
  callKey : Bool
  anyKey : Bool
  join : Bool
  deriving DecidableEq, Repr

/-- The causes of a wake, in the order of section 11.5. -/
inductive WakeKind where
  | card | callKey | key | deviceJoin | workstation
  deriving DecidableEq, Repr

/-- The wake cause with its station, absent for WORKSTATION (R162). -/
structure WakeCause where
  kind : WakeKind
  station : Option Station
  deriving DecidableEq, Repr

/-- A text that a keypad is to get when its session returns to IDLE: the idle text, for a station of the
idle-text-owed set (R168), or the closed text, for one that SUPERVISION found in that set with its keypad still ENGAGED
(row 7 of R180, log 27). -/
inductive OwedText where
  | idle | closed
  deriving DecidableEq, Repr

/-- The kinds of RESET-HUB (R178). -/
inductive ResetKind where
  | soft | full
  deriving DecidableEq, Repr

/-- The seven settings (R174), in the units of its table. -/
structure Settings where
  restartLimit : Nat
  supervision : Nat
  settleSelect : Nat
  highThreshold : Nat
  lowThreshold : Nat
  defaultStepTime : Nat
  warnLead : Nat
  deriving DecidableEq, Repr

/-- The settings after a power-on or full reset (R174). -/
def Settings.powerOn : Settings where
  restartLimit := 4
  supervision := 10
  settleSelect := 3
  highThreshold := 800
  lowThreshold := 20
  defaultStepTime := 300
  warnLead := 50

/-- The default policy after a power-on or full reset (R80). -/
def Policy.powerOn : Policy where
  accept := true
  accountMin := 12
  accountMax := 19
  checkRequired := true
  expiryRequired := true
  concealedMin := 4
  concealedMax := 12

/-- The closed text after a power-on or full reset: "POSITION CLOSED" (R175). -/
def powerOnClosedText : Text := [80, 79, 83, 73, 84, 73, 79, 78, 32, 67, 76, 79, 83, 69, 68]

/-! ### Notices, replies and the link (chapter 10) -/

/-- The reasons of DEVICE-CHANGE, in the order of R128. -/
inductive DeviceReason where
  | probed | joined | joinMiss | wrongKind | misses | fault | protocol | restartLimit | engaged | sessionEnded | dozed
  | woken | powerLost | powerRestored | released
  deriving DecidableEq, Repr

/-- The reasons of SUPPLY-CHANGE, in the order of R159. -/
inductive SupplyReason where
  | started | counterOpened | counterClosed | switchedOff | restored | trialPassed | tripped | cooled | clean
  deriving DecidableEq, Repr

/-- The reasons of COUNTER-CHANGE, in the order of R163. -/
inductive CounterReason where
  | powerOn | softReset | fullReset | startComplete | startCap | dozed | woken | opened | settled | closeCommand
  | supervisionExpired | reopened
  deriving DecidableEq, Repr

/-- The reply outcomes, in the order of R188. -/
inductive ReplyOutcome where
  | done | busy | badRequest | wrongState | unavailable | notFound | tooLate | tableFull | noAnswer
  deriving DecidableEq, Repr

/-- An item of the outbound queue (R189): a reply, its data as the bytes of section 11.3, or a notice by its fields. -/
inductive Item where
  | reply (sequence kind : Byte) (outcome : ReplyOutcome) (adjusted : Bool) (data : List Byte)
  | progress (station : Station) (tag index : Nat) (phase : Phase) (count : Nat) (warned : Bool) (remaining : Nat)
  | stepResult (result : StepResult)
  | sessionEnd (station : Station) (tag : Nat) (cause : EndCause)
  | stationCall (station : Station) (presses : Nat)
  | deviceChange (port : Port) (before after : PortState) (reason : DeviceReason) (changes : Nat)
  | supplyChange (station : Station) (before after : SupplyState) (reason : SupplyReason) (trips : Nat)
      (current : Option Nat) (changes : Nat)
  | counterChange (before after : CounterState) (reason : CounterReason) (cause : Option WakeCause) (changes : Nat)
  deriving DecidableEq, Repr

/-- The flow frames (R185). -/
inductive Flow where
  | hold | go
  deriving DecidableEq, Repr

/-- What the transmitter sends (R190): a flow frame or an item taken from the outbound queue. -/
inductive Outgoing where
  | flow (frame : Flow)
  | item (item : Item)
  deriving DecidableEq, Repr

/-- The frame in transmission, with its bytes on the line (R190). -/
structure Sending where
  what : Outgoing
  bytes : List Byte
  deriving DecidableEq, Repr

/-- A good command frame in the intake (R182, R184). -/
structure Frame where
  kind : Byte
  sequence : Byte
  payload : List Byte
  deriving DecidableEq, Repr

/-- The receiver's condition (R183): assembling holds the bytes after the start byte, in order, and the tick at which
the start byte arrived. -/
inductive Receiver where
  | hunting
  | assembling (bytes : List Byte) (start : Tick)
  deriving DecidableEq, Repr

/-- The rates of the link (R181). -/
inductive Rate where
  | baud115200 | baud230400 | baud460800 | baud921600
  deriving DecidableEq, Repr

/-! ### The whole state -/

/-- Everything the spec gives the part (INVENTORY.md, State), and the queue of commands that wait. -/
structure State where
  tick : Tick
  slotServed : Bool
  cts : Bool
  rate : Rate
  sense : Vector SenseCode 8
  receiver : Receiver
  intake : List Frame
  pendingFlow : Option Flow
  holding : Bool
  outbound : List Item
  sending : Option Sending
  sessions : Vector Session 8
  devices : Vector Device 16
  nextDue : Vector (Option Due) 16
  owed : Vector (Option Owed) 16
  pendingDirect : Option Direct
  flight : Option Flight
  deadlines : List Entry
  supplies : Vector Supply 8
  counter : CounterState
  wakeMask : Vector WakeFlags 8
  wakeCause : Option WakeCause
  awaiting : Vector Bool 16
  textOwed : Vector (Option OwedText) 8
  resetPending : Option ResetKind
  settings : Settings
  idleTexts : Vector Text 8
  closedText : Text
  policy : List PolicyEntry
  defaultPolicy : Policy
  businessMonth : Option BusinessMonth
  pending : List Instr
  deriving DecidableEq, Repr

/-- The reasons for which the part stops with a fault: none. What the spec calls a fault is a fault of a device
(R112), whose whole effect is state. -/
inductive Fault where
  deriving DecidableEq, Repr

/-- The reasons for which a command has no meaning. -/
inductive Refusal where
  /-- Raised by an arm of exec whose row has no meaning yet; safe, since nothing is claimed of it. No arm uses it. -/
  | notModelled (mnemonic : String)
  deriving DecidableEq, Repr

/-- The eight stations in order (00_scope section 4). -/
def stations : List Station := [0, 1, 2, 3, 4, 5, 6, 7]

/-- The part right after a power-on reset (R179): every block at its power-on values, and STARTING entered as R164
gives, with a trial begun at every station (R158, R161, R191). The levels of the input pins, and the rate the straps
give, are the model's own choice (log 4). -/
def State.reset : State where
  tick := 0
  slotServed := true
  cts := false
  rate := .baud115200
  sense := Vector.replicate 8 0
  receiver := .hunting
  intake := []
  pendingFlow := none
  holding := false
  outbound := .counterChange .starting .starting .powerOn none 1 ::
    stations.map fun st => .supplyChange st .off .trial .started 0 none 1
  sending := none
  sessions := Vector.replicate 8 Session.blank
  devices := Vector.replicate 16 Device.blank
  nextDue := Vector.replicate 16 none
  owed := Vector.replicate 16 none
  pendingDirect := none
  flight := none
  deadlines := stations.map (fun st => ⟨.supply st, .supply, 200⟩) ++
    [⟨.counter, .settle, 20000⟩, ⟨.counter, .supervision, 30000⟩]
  supplies := Vector.replicate 8 { Supply.blank with state := .trial }
  counter := .starting
  wakeMask := Vector.replicate 8 ⟨false, false, false, false⟩
  wakeCause := none
  awaiting := Vector.replicate 16 true
  textOwed := Vector.replicate 8 none
  resetPending := none
  settings := Settings.powerOn
  idleTexts := Vector.replicate 8 []
  closedText := powerOnClosedText
  policy := []
  defaultPolicy := Policy.powerOn
  businessMonth := none
  pending := []

end Sys2Proof.Machine
end

