-- ==== Sys2Proof/Machine/Ops.lean ====
section
/-! DEFINITION. The named operations over the records: reading and writing one session, device or supply, the tick
arithmetic and the deadline list of chapter 05, and placing replies and notices in the outbound queue (R189). -/

namespace Sys2Proof.Machine

/-! ### One record of many -/

def State.session (s : State) (st : Station) : Session := s.sessions[st.val]

def State.setSession (s : State) (st : Station) (r : Session) : State :=
  { s with sessions := s.sessions.set st.val r }

def State.modifySession (s : State) (st : Station) (f : Session → Session) : State :=
  s.setSession st (f (s.session st))

def State.device (s : State) (p : Port) : Device := s.devices[p.val]

def State.setDevice (s : State) (p : Port) (d : Device) : State :=
  { s with devices := s.devices.set p.val d }

def State.modifyDevice (s : State) (p : Port) (f : Device → Device) : State :=
  s.setDevice p (f (s.device p))

def State.supply (s : State) (st : Station) : Supply := s.supplies[st.val]

def State.setSupply (s : State) (st : Station) (r : Supply) : State :=
  { s with supplies := s.supplies.set st.val r }

def State.modifySupply (s : State) (st : Station) (f : Supply → Supply) : State :=
  s.setSupply st (f (s.supply st))

def State.due (s : State) (p : Port) : Option Due := s.nextDue[p.val]

def State.setDue (s : State) (p : Port) (t : Option Due) : State :=
  { s with nextDue := s.nextDue.set p.val t }

def State.owes (s : State) (p : Port) : Option Owed := s.owed[p.val]

def State.setOwed (s : State) (p : Port) (o : Option Owed) : State :=
  { s with owed := s.owed.set p.val o }

/-- Acts on every station in station order. -/
def State.forStations (s : State) (f : Station → State → State) : State :=
  stations.foldl (fun s st => f st s) s

/-- The sixteen addresses in order (00_scope section 4). -/
def ports : List Port := [0, 1, 2, 3, 4, 5, 6, 7, 8, 9, 10, 11, 12, 13, 14, 15]

/-- Acts on every device in address order. -/
def State.forPorts (s : State) (f : Port → State → State) : State :=
  ports.foldl (fun s p => f p s) s

/-! ### Stations and addresses (00_scope section 4) -/

/-- The reader of a station: address 2s − 1. -/
def readerOf (st : Station) : Port := ⟨2 * st.val, by have := st.isLt; omega⟩

/-- The keypad of a station: address 2s. -/
def keypadOf (st : Station) : Port := ⟨2 * st.val + 1, by have := st.isLt; omega⟩

/-- The station of a device. -/
def stationOf (p : Port) : Station := ⟨p.val / 2, by have := p.isLt; omega⟩

/-- The expected kind of an address: READER for an odd one, KEYPAD for an even one (R107). -/
def kindOf (p : Port) : DeviceKind := if p.val % 2 = 0 then .reader else .keypad

/-- The station a command's byte names, absent outside 1..8. -/
def stationOfByte (b : Byte) : Option Station :=
  if h : 1 ≤ b.toNat ∧ b.toNat ≤ 8 then some ⟨b.toNat - 1, by omega⟩ else none

/-- The address a command's byte names, absent outside 1..16. -/
def portOfByte (b : Byte) : Option Port :=
  if h : 1 ≤ b.toNat ∧ b.toNat ≤ 16 then some ⟨b.toNat - 1, by omega⟩ else none

/-! ### Ticks (R92, R94, R95) -/

/-- The distance of a deadline from the present, (deadline − now) modulo 2³² (R94). -/
def distance (now deadline : Tick) : Nat := (deadline - now).toNat

/-- The due test: (now − deadline) modulo 2³² is less than 2³¹ (R95). -/
def isDue (now deadline : Tick) : Bool := (now - deadline).toNat < 2147483648

/-- The count d ticks ahead, modulo 2³² (R92). -/
def ahead (now : Tick) (d : Nat) : Tick := now + BitVec.ofNat 32 d

/-- The remaining tenths to a deadline, rounded up; 0 once it is due (R99). -/
def remainingTenths (now deadline : Tick) : Nat :=
  if isDue now deadline then 0 else (distance now deadline + 99) / 100

/-! ### The deadline list (R93, R94, R97) -/

/-- Whether an entry is the owner's entry of a kind. -/
def Entry.isFor (o : Owner) (k : DeadlineKind) (e : Entry) : Bool := e.owner == o && e.kind == k

/-- Puts an entry at its place in due order: behind every entry whose distance is equal or smaller (R94). -/
def insertEntry (now : Tick) (e : Entry) : List Entry → List Entry
  | [] => [e]
  | x :: xs => if distance now x.deadline ≤ distance now e.deadline then x :: insertEntry now e xs else e :: x :: xs

/-- Removes the owner's entry of a kind; no effect when it holds none (R97). -/
def State.removeDeadline (s : State) (o : Owner) (k : DeadlineKind) : State :=
  { s with deadlines := s.deadlines.filter (fun e => !e.isFor o k) }

/-- Places an entry for a count, removing first the one of the same owner and kind (R94). -/
def State.placeDeadlineAt (s : State) (o : Owner) (k : DeadlineKind) (t : Tick) : State :=
  { s with deadlines := insertEntry s.tick ⟨o, k, t⟩ (s.deadlines.filter (fun e => !e.isFor o k)) }

/-- Places an entry d ticks ahead (R92, R94). -/
def State.placeDeadline (s : State) (o : Owner) (k : DeadlineKind) (d : Nat) : State :=
  s.placeDeadlineAt o k (ahead s.tick d)

/-- The deadline of the owner's entry of a kind, when it holds one. -/
def State.deadlineOf (s : State) (o : Owner) (k : DeadlineKind) : Option Tick :=
  (s.deadlines.find? (fun e => e.isFor o k)).map (·.deadline)

/-- Removes the STEP, WARN and KEY entries of a session (R12, R19). -/
def State.removeSessionDeadlines (s : State) (st : Station) : State :=
  ((s.removeDeadline (.session st) .step).removeDeadline (.session st) .warn).removeDeadline (.session st) .key

/-! ### The outbound queue (R189) -/

/-- The sort and key under which a notice is coalesced (R189). -/
inductive ItemKey where
  | progress (station : Station)
  | stationCall (station : Station)
  | deviceChange (port : Port)
  | supplyChange (station : Station)
  | counterChange
  deriving DecidableEq, Repr

/-- The key of a notice of a coalesced sort; a reply, a STEP-RESULT and a SESSION-END have none (R189). -/
def Item.key : Item → Option ItemKey
  | .progress st .. => some (.progress st)
  | .stationCall st _ => some (.stationCall st)
  | .deviceChange p .. => some (.deviceChange p)
  | .supplyChange st .. => some (.supplyChange st)
  | .counterChange .. => some .counterChange
  | .reply .. | .stepResult _ | .sessionEnd .. => none

/-- Appends an item at the tail (R189). -/
def State.append (s : State) (i : Item) : State := { s with outbound := s.outbound ++ [i] }

/-- Updates the standing notice of a key in place, or appends a new one (R189). -/
def coalesce (k : ItemKey) (update : Item → Item) (fresh : Item) : List Item → List Item
  | [] => [fresh]
  | x :: xs => if x.key = some k then update x :: xs else x :: coalesce k update fresh xs

/-- Places a notice of a coalesced sort (R189). -/
def State.note (s : State) (k : ItemKey) (update : Item → Item) (fresh : Item) : State :=
  { s with outbound := coalesce k update fresh s.outbound }

/-- A press or change count with one more, held at 255 (R54, R128, R159, R163). -/
def bump (n : Nat) : Nat := if n < 255 then n + 1 else 255

/-- Places a reply (R187). The adjusted flag stands only with DONE (R188). -/
def State.reply (s : State) (sequence kind : Byte) (outcome : ReplyOutcome) (adjusted : Bool) (data : List Byte) :
    State :=
  s.append (.reply sequence (kind ||| 0x80) outcome adjusted data)

/-- Whether an item is a reply. -/
def Item.isReply : Item → Bool
  | .reply .. => true
  | _ => false

/-- Whether an item is a STEP-RESULT or a SESSION-END of a station (R14). -/
def Item.isResultOf (st : Station) : Item → Bool
  | .stepResult r => r.station == st
  | .sessionEnd x _ _ => x == st
  | _ => false

/-- Whether the item in transmission satisfies a test. -/
def State.sendingSuch (s : State) (test : Item → Bool) : Bool :=
  match s.sending with
  | some ⟨.item i, _⟩ => test i
  | _ => false

/-- Whether a STEP-RESULT or SESSION-END of the station is outstanding: standing or in transmission (R14). -/
def State.outstanding (s : State) (st : Station) : Bool :=
  s.outbound.any (Item.isResultOf st) || s.sendingSuch (Item.isResultOf st)

end Sys2Proof.Machine
end

