-- ==== Sys2Proof/Machine/CardEvaluator.lean ====
section
/-! DEFINITION. The card evaluator (section 3.3) with the lookup of the policy table (R87): functions of the reading,
the table, the default policy and the business month, with no state of their own. -/

namespace Sys2Proof.Machine

/-- The outcome of an evaluation (section 3.3). -/
inductive Evaluation where
  | readError
  | refused (reason : RefusalReason)
  | accepted (record : CardRecord) (policy : PolicyEntry)
  deriving DecidableEq, Repr

/-- The value of the field mark (R67). -/
def fieldMark : Nat := 11

/-- Stage 1: 1..40 characters, each a digit or the field mark (R67). -/
def formGood (chars : List Nat) : Bool :=
  1 ≤ chars.length && chars.length ≤ 40 && chars.all fun c => c ≤ 9 || c == fieldMark

/-- Stage 2: the sum of the characters modulo 16 is the check value (R68). -/
def checkSumGood (chars : List Nat) (check : Nat) : Bool := chars.sum % 16 == check

/-- Stage 3: the account digits and the trailer around the one field mark (R69). -/
def splitTrack : List Nat → Option (Digits × Digits)
  | [] => none
  | c :: rest =>
    if c = fieldMark then (if rest.contains fieldMark then none else some ([], rest))
    else (splitTrack rest).map fun (a, t) => (c :: a, t)

/-- The trailer's fields (R71). -/
structure Trailer where
  year : Nat
  month : Nat
  service : Digits
  discretionary : Digits
  deriving DecidableEq, Repr

/-- Stage 5: at least seven digits, month 1..12 (R71). -/
def openTrailer : Digits → Option Trailer
  | y1 :: y2 :: m1 :: m2 :: s1 :: s2 :: s3 :: rest =>
    if 1 ≤ 10 * m1 + m2 ∧ 10 * m1 + m2 ≤ 12 then some ⟨10 * y1 + y2, 10 * m1 + m2, [s1, s2, s3], rest⟩ else none
  | _ => none

/-- The entry with the longest prefix of the account: the last match in the table's order, since every match precedes
the longer ones (R87). -/
def longestMatch (account : Digits) : List PolicyEntry → Option PolicyEntry
  | [] => none
  | e :: rest =>
    match longestMatch account rest with
    | some better => if e.key.isPrefixOf account && better.key.length < e.key.length then some e else some better
    | none => if e.key.isPrefixOf account then some e else none

/-- Stage 6: the matching entry, or the default policy with an empty key (R72, R87). -/
def lookupPolicy (table : List PolicyEntry) (default : Policy) (account : Digits) : PolicyEntry :=
  (longestMatch account table).getD ⟨[], default⟩

/-- A digit at an even position, doubled, with 9 taken from a double above 9 (R74). -/
def doubledDigit (d : Nat) : Nat := if 9 < 2 * d then 2 * d - 9 else 2 * d

/-- The weighted sum over digits listed from the right, the first at an odd position (R74). -/
def weightedSum : Digits → Nat
  | [] => 0
  | [d] => d
  | d :: e :: rest => d + doubledDigit e + weightedSum rest

/-- Stage 9's test (R74). -/
def checkDigitGood (account : Digits) : Bool := weightedSum account.reverse % 10 == 0

/-- Stage 10's test: the card index is below today's index (R75). -/
def expiredAt (m : BusinessMonth) (year month : Nat) : Bool := year * 12 + month < m.year * 12 + m.month

/-- Stages 6 to 11 on a track of good form (R72 to R76). -/
def judgeCard (table : List PolicyEntry) (default : Policy) (today : Option BusinessMonth) (account : Digits)
    (t : Trailer) : Evaluation :=
  let e := lookupPolicy table default account
  if !e.policy.accept then .refused .onPrefix
  else if account.length < e.policy.accountMin || e.policy.accountMax < account.length then .refused .onLength
  else if e.policy.checkRequired && !checkDigitGood account then .refused .onCheckDigit
  else if e.policy.expiryRequired && today.any (fun m => expiredAt m t.year t.month) then .refused .expired
  else .accepted
    { account := account, year := t.year, month := t.month, service := t.service, discretionary := t.discretionary,
      checkVerified := e.policy.checkRequired, expiryChecked := e.policy.expiryRequired && today.isSome,
      matched := e.key } e

/-- The evaluation of a track reading, stage by stage (section 3.3). -/
def evaluate (table : List PolicyEntry) (default : Policy) (today : Option BusinessMonth) (chars : List Nat)
    (check : Nat) : Evaluation :=
  if !formGood chars then .readError
  else if !checkSumGood chars check then .readError
  else match splitTrack chars with
    | none => .readError
    | some (account, trailer) =>
      if account.length < 12 || 19 < account.length then .readError
      else match openTrailer trailer with
        | none => .readError
        | some t => judgeCard table default today account t

end Sys2Proof.Machine
end

