-- ==== Sys2Proof/Machine/Flags.lean ====
section
/-! DEFINITION. Bringing values into range, and the adjusted flag that says a value was changed (R188). -/

namespace Sys2Proof.Machine

/-- A value with the adjusted flag that belongs to it. -/
structure Adjusted (α : Type) where
  value : α
  adjusted : Bool
  deriving DecidableEq, Repr

/-- Brings a number into low..high; the flag says that it changed. -/
def clamp (low high n : Nat) : Adjusted Nat :=
  let v := if n < low then low else if high < n then high else n
  ⟨v, v != n⟩

/-- Whether a character has a code a display text may hold (00_scope section 4, R4). -/
def printable (c : Byte) : Bool := 32 ≤ c.toNat && c.toNat ≤ 126

/-- A text cut to its first 40 characters with every character outside 32..126 replaced by "?" (R4, R175). -/
def normaliseText (t : Text) : Adjusted Text :=
  let v := (t.take 40).map fun c => if printable c then c else 63
  ⟨v, v != t⟩

/-- The step time of R4: above 600 becomes 600; 0 is replaced by the default step time, which is no adjustment. -/
def normaliseStepTime (default n : Nat) : Adjusted Nat :=
  if n = 0 then ⟨default, false⟩ else clamp 1 600 n

/-- The fields of a step's kind brought into range as the table of R4 gives. -/
def normaliseKind (default : Nat) : StepKind → Adjusted StepKind
  | .card attempts time =>
    let a := clamp 1 3 attempts
    let t := normaliseStepTime default time
    ⟨.card a.value t.value, a.adjusted || t.adjusted⟩
  | .entry mode lo hi bounds first inter time =>
    let range : Nat × Nat := match mode with
      | .plain => (1, 16)
      | .concealed => (4, 12)
    let l := clamp range.1 range.2 lo
    let h := clamp range.1 range.2 hi
    let f := clamp 0 600 first
    let i := clamp 0 600 inter
    let t := normaliseStepTime default time
    ⟨.entry mode l.value h.value bounds f.value i.value t.value,
      l.adjusted || h.adjusted || f.adjusted || i.adjusted || t.adjusted⟩
  | .confirm time =>
    let t := normaliseStepTime default time
    ⟨.confirm t.value, t.adjusted⟩
  | .showText time =>
    let t := clamp 1 600 time
    ⟨.showText t.value, t.adjusted⟩

/-- A step record normalised (R4). -/
def normaliseStep (default : Nat) (r : StepRecord) : Adjusted StepRecord :=
  let p := normaliseText r.prompt
  let k := normaliseKind default r.kind
  ⟨⟨p.value, k.value⟩, p.adjusted || k.adjusted⟩

/-- Every step record normalised, with one flag for all (R4). -/
def normaliseSteps (default : Nat) (l : List StepRecord) : Adjusted (List StepRecord) :=
  let n := l.map (normaliseStep default)
  ⟨n.map (·.value), n.any (·.adjusted)⟩

/-- The ranges of a policy brought into 12..19 and 4..12 (R82). -/
def normalisePolicy (p : Policy) : Adjusted Policy :=
  let a := clamp 12 19 p.accountMin
  let b := clamp 12 19 p.accountMax
  let c := clamp 4 12 p.concealedMin
  let d := clamp 4 12 p.concealedMax
  ⟨{ p with accountMin := a.value, accountMax := b.value, concealedMin := c.value, concealedMax := d.value },
    a.adjusted || b.adjusted || c.adjusted || d.adjusted⟩

/-- A threshold brought into its range and then rounded down to an even value (R150). -/
def normaliseThreshold (low high n : Nat) : Adjusted Nat :=
  let v := (clamp low high n).value
  let e := v - v % 2
  ⟨e, e != n⟩

/-- The seven settings by name, in the order of R174. -/
inductive SettingName where
  | restartLimit | supervision | settleSelect | highThreshold | lowThreshold | defaultStepTime | warnLead
  deriving DecidableEq, Repr

/-- A setting's value brought into its range (R174, R100, R101, R150). -/
def settingInRange : SettingName → Nat → Adjusted Nat
  | .restartLimit, v => clamp 1 14 v
  | .supervision, v => clamp 2 60 v
  | .settleSelect, v => clamp 0 7 v
  | .highThreshold, v => normaliseThreshold 100 1500 v
  | .lowThreshold, v => normaliseThreshold 10 200 v
  | .defaultStepTime, v => clamp 10 600 v
  | .warnLead, v => clamp 0 300 v

/-- Stores one setting's value. -/
def Settings.put (x : Settings) : SettingName → Nat → Settings
  | .restartLimit, v => { x with restartLimit := v }
  | .supervision, v => { x with supervision := v }
  | .settleSelect, v => { x with settleSelect := v }
  | .highThreshold, v => { x with highThreshold := v }
  | .lowThreshold, v => { x with lowThreshold := v }
  | .defaultStepTime, v => { x with defaultStepTime := v }
  | .warnLead, v => { x with warnLead := v }

end Sys2Proof.Machine
end

