-- ==== Sys2Proof/Machine/Layout.lean ====
section
/-! DEFINITION. The byte forms of what the part sends (chapter 11): the CRC of both lines, link frames, notices,
report data, and the request frames of the counter bus. -/

namespace Sys2Proof.Machine

/-! ### Conventions (R192) -/

def byteOf (n : Nat) : Byte := BitVec.ofNat 8 n

/-- A number of two bytes, least significant first (R192). -/
def le16 (n : Nat) : List Byte := [byteOf n, byteOf (n / 256)]

/-- A number of four bytes, least significant first (R192). -/
def le32 (n : Nat) : List Byte := [byteOf n, byteOf (n / 256), byteOf (n / 65536), byteOf (n / 16777216)]

def yesNo (b : Bool) : Byte := if b then 1 else 0

/-- A variable digit list with its count byte (R192). -/
def countedDigits (d : Digits) : List Byte := byteOf d.length :: d.map byteOf

/-- A text: a count byte and the characters (R192). -/
def countedText (t : Text) : List Byte := byteOf t.length :: t

def stationByte (st : Station) : Byte := byteOf (st.val + 1)

def addressByte (p : Port) : Byte := byteOf (p.val + 1)

/-- A code field that may be absent: 0 stands for absent (R192). -/
def codeOr0 {α : Type} (code : α → Byte) : Option α → Byte
  | none => 0
  | some a => code a

/-- An absent number is carried as 0 where 0 is no value of it. R192 says so of tags and currents; the index of a step,
which counts from 1, is carried in the same way (DEDUCED, log 23). -/
def numberOr0 (n : Option Nat) : Nat := n.getD 0

/-! ### Codes: each name's place in its list, counting from 1 (R192) -/

def EndCause.code : EndCause → Byte
  | .completed => 1 | .timedOut => 2 | .cancelledCustomer => 3 | .cancelledWorkstation => 4 | .deviceLost => 5
  | .workstationLost => 6 | .readFailed => 7 | .cardRefused => 8 | .policyConflict => 9

def PortState.code : PortState → Byte
  | .unpowered => 1 | .absent => 2 | .joining => 3 | .ready => 4 | .engaged => 5 | .dozing => 6 | .restarting => 7
  | .held => 8

def DeviceReason.code : DeviceReason → Byte
  | .probed => 1 | .joined => 2 | .joinMiss => 3 | .wrongKind => 4 | .misses => 5 | .fault => 6 | .protocol => 7
  | .restartLimit => 8 | .engaged => 9 | .sessionEnded => 10 | .dozed => 11 | .woken => 12 | .powerLost => 13
  | .powerRestored => 14 | .released => 15

def SupplyState.code : SupplyState → Byte
  | .off => 1 | .trial => 2 | .on => 3 | .cooling => 4 | .locked => 5

def SupplyReason.code : SupplyReason → Byte
  | .started => 1 | .counterOpened => 2 | .counterClosed => 3 | .switchedOff => 4 | .restored => 5 | .trialPassed => 6
  | .tripped => 7 | .cooled => 8 | .clean => 9

def CounterState.code : CounterState → Byte
  | .starting => 1 | .opened => 2 | .waking => 3 | .lull => 4 | .closed => 5 | .orphaned => 6

def CounterReason.code : CounterReason → Byte
  | .powerOn => 1 | .softReset => 2 | .fullReset => 3 | .startComplete => 4 | .startCap => 5 | .dozed => 6
  | .woken => 7 | .opened => 8 | .settled => 9 | .closeCommand => 10 | .supervisionExpired => 11 | .reopened => 12

def ReplyOutcome.code : ReplyOutcome → Byte
  | .done => 1 | .busy => 2 | .badRequest => 3 | .wrongState => 4 | .unavailable => 5 | .notFound => 6
  | .tooLate => 7 | .tableFull => 8 | .noAnswer => 9

/-- Phase codes (section 11.5). -/
def Phase.code : Phase → Byte
  | .starting => 1 | .waitingClear => 2 | .active => 3 | .delivering => 4

/-- Session state codes of STATUS (section 11.5). -/
def SessionState.code : SessionState → Byte
  | .idle => 1 | .running => 2 | .ending => 3

/-- Wake cause codes (section 11.5). -/
def WakeKind.code : WakeKind → Byte
  | .card => 1 | .callKey => 2 | .key => 3 | .deviceJoin => 4 | .workstation => 5

/-- Reasons of a refused card (section 11.5). -/
def RefusalReason.code : RefusalReason → Byte
  | .onPrefix => 1 | .onLength => 2 | .onCheckDigit => 3 | .expired => 4

/-- Held reasons of DEVICE-INFO (section 11.5). -/
def HeldReason.code : HeldReason → Byte
  | .restartLimit => 1 | .wrongKind => 2

/-- Track-error kinds (section 11.6). -/
def TrackError.code : TrackError → Byte
  | .noData => 1 | .format => 2 | .overlong => 3 | .withdrawn => 4

/-- The kind byte of an expected kind (section 11.5). -/
def DeviceKind.code : DeviceKind → Byte
  | .reader => 1 | .keypad => 2

/-! ### The CRC (R182) -/

/-- One data bit taken into the register. -/
def crcBit (c : BitVec 16) (b : Bool) : BitVec 16 :=
  if c.msb != b then (c <<< 1) ^^^ 0x1021 else c <<< 1

/-- One byte taken in, most significant bit first. -/
def crcByte (c : BitVec 16) (b : Byte) : BitVec 16 :=
  [7, 6, 5, 4, 3, 2, 1, 0].foldl (fun c i => crcBit c (b.getLsbD i)) c

/-- The CRC over a list of bytes, from 0xFFFF (R182). -/
def crc (l : List Byte) : BitVec 16 := l.foldl crcByte 0xFFFF

/-- The two CRC bytes, most significant first (R192). -/
def crcBytes (l : List Byte) : List Byte := [(crc l).extractLsb' 8 8, (crc l).extractLsb' 0 8]

/-! ### Link frames (section 11.2) -/

/-- A frame of the link: start byte, length, kind, sequence, payload and CRC. -/
def linkFrame (kind sequence : Byte) (payload : List Byte) : List Byte :=
  let body := le16 (payload.length + 2) ++ kind :: sequence :: payload
  0xA5 :: body ++ crcBytes body

/-! ### Notices (section 11.5) -/

/-- The card record as a STEP-RESULT carries it (section 11.4). -/
def CardRecord.bytes (r : CardRecord) : List Byte :=
  countedDigits r.account ++ [byteOf r.year, byteOf r.month] ++ r.service.map byteOf ++ countedDigits r.discretionary
    ++ [yesNo r.checkVerified, yesNo r.expiryChecked] ++ countedDigits r.matched

/-- The step kind code of a result's step (section 11.4). -/
def ResultData.kindCode : ResultData → Byte
  | .cardOk .. | .cardRefused _ => 1
  | .entryPlain _ | .entryConcealed .. => 2
  | .confirmOk => 3
  | .showOk => 4

/-- The outcome code: 1 OK, 2 REFUSED (section 11.5). -/
def ResultData.outcomeCode : ResultData → Byte
  | .cardRefused _ => 2
  | .cardOk .. | .entryPlain _ | .entryConcealed .. | .confirmOk | .showOk => 1

/-- The data of a STEP-RESULT (section 11.5). -/
def ResultData.bytes : ResultData → List Byte
  | .cardOk r k => r.bytes ++ countedDigits k
  | .cardRefused reason => [reason.code]
  | .entryPlain d => 0 :: countedDigits d
  | .entryConcealed n b => 1 :: byteOf n :: b
  | .confirmOk => [10]
  | .showOk => []

/-- An absent current is carried as 0xFFFF (R192). -/
def currentBytes (c : Option Nat) : List Byte := le16 (c.getD 0xFFFF)

def wakeBytes (c : Option WakeCause) : List Byte :=
  [codeOr0 (fun w : WakeCause => w.kind.code) c, codeOr0 stationByte (c.bind (·.station))]

/-- The kind byte of an item (section 11.2). -/
def Item.kindByte : Item → Byte
  | .reply _ k .. => k
  | .progress .. => 0xC1
  | .stepResult _ => 0xC2
  | .sessionEnd .. => 0xC3
  | .stationCall .. => 0xC4
  | .deviceChange .. => 0xC5
  | .supplyChange .. => 0xC6
  | .counterChange .. => 0xC7

/-- The sequence of an item: that of the command in a reply, 0 in a notice (R182). -/
def Item.sequenceByte : Item → Byte
  | .reply q .. => q
  | .progress .. | .stepResult _ | .sessionEnd .. | .stationCall .. | .deviceChange .. | .supplyChange ..
  | .counterChange .. => 0

/-- The flags byte of a reply: bit 0 says adjusted (section 11.2), and the other bits are free (log 32). -/
def replyFlags (adjusted : Bool) : Byte := yesNo adjusted ||| (Config.unassignedReplyBits &&& 0xFE)

/-- The payload of a reply (section 11.2) or of a notice (section 11.5). -/
def Item.payload : Item → List Byte
  | .reply _ _ o adjusted data => o.code :: replyFlags adjusted :: data
  | .progress st tag index phase count warned remaining =>
    stationByte st :: le16 tag ++ [byteOf index, phase.code, byteOf count, yesNo warned] ++ le16 remaining
  | .stepResult r =>
    stationByte r.station :: le16 r.tag ++ [byteOf r.index, r.data.kindCode, r.data.outcomeCode] ++ r.data.bytes
  | .sessionEnd st tag cause => stationByte st :: le16 tag ++ [cause.code]
  | .stationCall st presses => [stationByte st, byteOf presses]
  | .deviceChange p before after reason changes =>
    [addressByte p, before.code, after.code, reason.code, byteOf changes]
  | .supplyChange st before after reason trips current changes =>
    [stationByte st, before.code, after.code, reason.code, byteOf trips] ++ currentBytes current ++ [byteOf changes]
  | .counterChange before after reason cause changes =>
    [before.code, after.code, reason.code] ++ wakeBytes cause ++ [byteOf changes]

/-- The bytes of a frame the transmitter sends (R182, section 11.2). -/
def Outgoing.bytes : Outgoing → List Byte
  | .flow .hold => linkFrame 0xE1 0 []
  | .flow .go => linkFrame 0xE2 0 []
  | .item i => linkFrame i.kindByte i.sequenceByte i.payload

/-! ### Report data (sections 11.3 to 11.5) -/

/-- The bytes of a policy's fields at offsets 11 to 17 of the policy record (section 11.4). -/
def Policy.bytes (p : Policy) : List Byte :=
  [if p.accept then 1 else 2, byteOf p.accountMin, byteOf p.accountMax, yesNo p.checkRequired, yesNo p.expiryRequired,
    byteOf p.concealedMin, byteOf p.concealedMax]

/-- A policy record of 18 bytes (section 11.4). What the places beyond the count hold is a free value (log 21). -/
def policyRecord (key : Digits) (p : Policy) : List Byte :=
  byteOf key.length ::
    (key.map byteOf ++ (List.range (10 - key.length)).map fun i => Config.unusedPrefixByte (key.length + i)) ++ p.bytes

/-- The ten bytes of one station in STATUS (section 11.5). -/
def stationReport (s : State) (st : Station) : List Byte :=
  let r := s.session st
  [r.state.code] ++ le16 (numberOr0 r.tag) ++ [byteOf (numberOr0 r.index), codeOr0 Phase.code r.phase]
    ++ le16 (numberOr0 r.lastTag) ++ [codeOr0 EndCause.code r.lastCause, (s.supply st).state.code, 0]

/-- The business month's two bytes; absent carries a year of 0xFF, and its month byte is a free value (R192, log 22). -/
def monthBytes : Option BusinessMonth → List Byte
  | none => [0xFF, Config.absentMonth]
  | some m => [byteOf m.year, byteOf m.month]

/-- The STATUS data (R177, section 11.5). -/
def statusData (s : State) : List Byte :=
  s.counter.code :: wakeBytes s.wakeCause ++ le32 s.tick.toNat ++ stations.flatMap (stationReport s)
    ++ ports.map (fun p => (s.device p).state.code) ++ [byteOf s.intake.length] ++ monthBytes s.businessMonth

/-- The identity block of the IDENTIFY answer (section 11.6). -/
def Identity.bytes (i : Identity) : List Byte :=
  [i.kind] ++ le16 i.model.toNat ++ [i.firmware, yesNo i.concealed]

/-- The status byte: awake, card present and the count of keys held in bits 0 to 3 (section 11.6); the other bits are
free (log 32). -/
def DeviceStatus.flags (d : DeviceStatus) : Byte :=
  byteOf ((if d.awake then 1 else 0) + (if d.cardPresent then 2 else 0) + 4 * d.keysHeld.length)
    ||| (Config.unassignedStatusBits &&& 0xF0)

/-- The status block of the answer frame: offsets 3 to 6 (section 11.6). -/
def DeviceStatus.bytes (d : DeviceStatus) : List Byte :=
  d.flags :: (d.keysHeld ++ List.replicate (3 - d.keysHeld.length) 0xFF)

/-- A block preceded by a yes-or-no byte for its presence; nothing follows the byte of an absent one (log 10). -/
def presentBlock {α : Type} (bytes : α → List Byte) : Option α → List Byte
  | none => [0]
  | some a => 1 :: bytes a

/-- The last fault as two bytes (section 11.5). -/
def lastFaultBytes : Option LastFault → List Byte
  | none => [0, 0]
  | some (.device c) => [1, c]
  | some (.track k) => [2, k.code]
  | some .misses => [3, 0]
  | some .protocol => [4, 0]

/-- The DEVICE-INFO data (R129, section 11.5). -/
def deviceInfoData (s : State) (p : Port) : List Byte :=
  let d := s.device p
  [addressByte p, (kindOf p).code, d.state.code, codeOr0 HeldReason.code d.heldReason, byteOf d.restartCount,
    byteOf s.settings.restartLimit, byteOf d.missRun]
    ++ presentBlock Identity.bytes d.identity ++ presentBlock DeviceStatus.bytes d.status
    ++ [yesNo d.batchToggle, yesNo d.commandToggle] ++ lastFaultBytes d.lastFault

/-- The seven settings' values in code order (section 11.3). -/
def Settings.bytes (x : Settings) : List Byte :=
  le16 x.restartLimit ++ le16 x.supervision ++ le16 x.settleSelect ++ le16 x.highThreshold ++ le16 x.lowThreshold
    ++ le16 x.defaultStepTime ++ le16 x.warnLead

/-! ### Request frames of the counter bus (section 11.6) -/

/-- A device command as a POLL carries it. -/
def DeviceCommand.bytes : DeviceCommand → List Byte
  | .showText t => 0x10 :: countedText t
  | .beep .error => [0x11, 1]
  | .beep .warn => [0x11, 2]
  | .concealBegin lo hi => [0x12, byteOf lo, byteOf hi]
  | .concealEnd => [0x13]
  | .intakeOn => [0x14]
  | .intakeOff => [0x15]
  | .doze => [0x16]
  | .wake => [0x17]

def Request.code : Request → Byte
  | .probe => 1 | .identify => 2 | .configure => 3 | .poll => 4 | .resetDevice => 5 | .diag => 6

/-- The flags byte of a request: the batch toggle as ack toggle and the command toggle in bits 0 and 1 (R133, section
11.6); the other bits are free (log 32). -/
def requestFlags (ack command : Bool) : Byte :=
  byteOf ((if ack then 1 else 0) + (if command then 2 else 0)) ||| (Config.unassignedRequestBits &&& 0xFC)

/-- A request frame (section 11.6). -/
def requestFrame (p : Port) (r : Request) (ack command : Bool) (payload : List Byte) : List Byte :=
  let body := [addressByte p, r.code, requestFlags ack command, byteOf payload.length] ++ payload
  0x5A :: body ++ crcBytes body

end Sys2Proof.Machine
end

