-- ==== Sys2Proof/Machine/Operands.lean ====
section
/-! DEFINITION. The operands as bytes: the payload forms of the commands (sections 11.3, 11.4), malformed when none of
them fits (R187, R192), and the answer frames of the counter bus with their events (section 11.6, R135, R136, R193). -/

namespace Sys2Proof.Machine

/-! ### Fields -/

/-- A number of two bytes, least significant first (R192). -/
def num16 (lo hi : Byte) : Nat := lo.toNat + 256 * hi.toNat

/-- A yes-or-no byte: 1 or 0, any other value is malformed (R192). -/
def yesNoOf (b : Byte) : Option Bool := if b = 1 then some true else if b = 0 then some false else none

/-- The first n bytes and the rest, absent when there are fewer. -/
def takeBytes (n : Nat) (l : List Byte) : Option (List Byte × List Byte) :=
  if n ≤ l.length then some (l.take n, l.drop n) else none

/-- Digit bytes as digits; a byte above 9 is malformed (R192). -/
def digitsOf : List Byte → Option Digits
  | [] => some []
  | b :: rest => if b.toNat ≤ 9 then (digitsOf rest).map (b.toNat :: ·) else none

/-- A payload that is one text (R192). -/
def textOf : List Byte → Option Text
  | [] => none
  | n :: rest => if rest.length = n.toNat then some rest else none

/-! ### The commands' payloads -/

/-- What a payload holds when it is within the commands' forms. R183 says that a payload of 241 bytes exceeds every one
of them; the texts of R192 and the step records of R3 could fill one (DESIGN CHOICE, log 31). -/
def withinForm {α : Type} (l : List Byte) (x : Option α) : Option α :=
  if l.length < Config.maxPayload then x else none

/-- The fields of a step record's kind; a field its kind does not use is not judged (section 11.4). -/
def stepKindOf (kind mode attempts lo hi bounds : Byte) (first inter time : Nat) : Option StepKind :=
  if kind = 1 then some (.card attempts.toNat time)
  else if kind = 2 then
    if mode = 0 then (yesNoOf bounds).map fun b => .entry .plain lo.toNat hi.toNat b first inter time
    else if mode = 1 then (yesNoOf bounds).map fun b => .entry .concealed lo.toNat hi.toNat b first inter time
    else none
  else if kind = 3 then some (.confirm time)
  else if kind = 4 then some (.showText time)
  else none

/-- One step record and the bytes after it (section 11.4). -/
def stepRecordOf : List Byte → Option (StepRecord × List Byte)
  | kind :: mode :: attempts :: lo :: hi :: bounds :: f0 :: f1 :: i0 :: i1 :: t0 :: t1 :: n :: rest =>
    match takeBytes n.toNat rest, stepKindOf kind mode attempts lo hi bounds (num16 f0 f1) (num16 i0 i1) (num16 t0 t1) with
    | some (prompt, after), some k => some (⟨prompt, k⟩, after)
    | _, _ => none
  | _ => none

/-- A number of step records that fill the bytes. -/
def stepRecordsOf : Nat → List Byte → Option (List StepRecord)
  | 0, [] => some []
  | 0, _ :: _ => none
  | n + 1, l =>
    match stepRecordOf l with
    | none => none
    | some (r, rest) => (stepRecordsOf n rest).map (r :: ·)

/-- The progress modes' codes (section 11.3). -/
def progressModeOf (b : Byte) : Option ProgressMode :=
  if b = 0 then some .off else if b = 1 then some .phases else if b = 2 then some .all else none

/-- OPEN-SESSION's fields (R3); the station and the tag are judged by R5. -/
structure OpenRequest where
  station : Byte
  tag : Nat
  mode : ProgressMode
  steps : List StepRecord
  deriving DecidableEq, Repr

/-- OPEN-SESSION: station, tag, progress mode, and a count of steps with that many step records (section 11.3). -/
def openRequestOf (payload : List Byte) : Option OpenRequest :=
  withinForm payload <| match payload with
    | st :: g0 :: g1 :: mode :: n :: rest =>
      match progressModeOf mode, stepRecordsOf n.toNat rest with
      | some m, some l => some ⟨st, num16 g0 g1, m, l⟩
      | _, _ => none
    | _ => none

/-- CANCEL-SESSION: station and tag. -/
def cancelRequestOf : List Byte → Option (Byte × Nat)
  | [st, g0, g1] => some (st, num16 g0 g1)
  | _ => none

/-- EXTEND-STEP: station, tag and amount. -/
def extendRequestOf : List Byte → Option (Byte × Nat × Nat)
  | [st, g0, g1, a0, a1] => some (st, num16 g0 g1, num16 a0 a1)
  | _ => none

/-- The fields of a policy from offsets 11 to 17 of the policy record; an action or a yes-or-no byte that no list
defines is malformed (R192). -/
def policyOf : List Byte → Option Policy
  | [action, amin, amax, check, expiry, cmin, cmax] =>
    match (if action = 1 then some true else if action = 2 then some false else none), yesNoOf check,
      yesNoOf expiry with
    | some a, some c, some e => some ⟨a, amin.toNat, amax.toNat, c, e, cmin.toNat, cmax.toNat⟩
    | _, _, _ => none
  | _ => none

/-- POLICY-LOAD: the prefix count as sent, the digits it counts (at most ten), and the policy (section 11.4). -/
structure LoadRequest where
  count : Nat
  key : Digits
  policy : Policy
  deriving DecidableEq, Repr

def loadRequestOf : List Byte → Option LoadRequest
  | n :: rest =>
    match digitsOf ((rest.take 10).take n.toNat), policyOf (rest.drop 10) with
    | some k, some p => if rest.length = 17 then some ⟨n.toNat, k, p⟩ else none
    | _, _ => none
  | [] => none

/-- DEFAULT-POLICY: a policy record whose prefix is ignored (section 11.3). -/
def defaultRequestOf (l : List Byte) : Option Policy :=
  if l.length = 18 then policyOf (l.drop 11) else none

/-- POLICY-DROP: a prefix with its count; a count above ten is well formed and refused by R84 (log 9). -/
def dropRequestOf (payload : List Byte) : Option Digits :=
  withinForm payload <| match payload with
    | n :: rest => if rest.length = n.toNat then digitsOf rest else none
    | [] => none

/-- A payload of one byte. -/
def oneByteOf : List Byte → Option Byte
  | [b] => some b
  | _ => none

/-- A payload of two bytes. -/
def twoBytesOf : List Byte → Option (Byte × Byte)
  | [a, b] => some (a, b)
  | _ => none

/-- An empty payload. -/
def noBytes : List Byte → Option Unit
  | [] => some ()
  | _ => none

/-- DIRECT-EXCHANGE: address and counted payload (section 11.3). -/
def directRequestOf (payload : List Byte) : Option (Byte × List Byte) :=
  withinForm payload <| match payload with
    | a :: n :: rest => if rest.length = n.toNat then some (a, rest) else none
    | _ => none

/-- The four flags of each station in turn (section 11.3). -/
def wakeFlagsOf : List Byte → Option (List WakeFlags)
  | [] => some []
  | a :: b :: c :: d :: rest =>
    match yesNoOf a, yesNoOf b, yesNoOf c, yesNoOf d, wakeFlagsOf rest with
    | some a, some b, some c, some d, some l => some (⟨a, b, c, d⟩ :: l)
    | _, _, _, _, _ => none
  | _ => none

/-- DOZE-COUNTER: 32 yes-or-no bytes (section 11.3). -/
def wakeMaskOf (l : List Byte) : Option (Vector WakeFlags 8) :=
  match wakeFlagsOf l with
  | some f => if h : f.length = 8 then some ⟨f.toArray, by simpa using h⟩ else none
  | none => none

/-- The setting a code names: its place in the order of R174 (R192). -/
def settingNameOf (b : Byte) : Option SettingName :=
  match b.toNat with
  | 1 => some .restartLimit
  | 2 => some .supervision
  | 3 => some .settleSelect
  | 4 => some .highThreshold
  | 5 => some .lowThreshold
  | 6 => some .defaultStepTime
  | 7 => some .warnLead
  | _ => none

/-- The pairs of a setting code and a value. -/
def settingPairsOf : List Byte → Option (List (Byte × Nat))
  | [] => some []
  | c :: v0 :: v1 :: rest => (settingPairsOf rest).map ((c, num16 v0 v1) :: ·)
  | _ => none

/-- SETTINGS: a count and that many pairs; a code that names no setting is for R174 to refuse (section 11.3). -/
def settingsRequestOf (payload : List Byte) : Option (List (Byte × Nat)) :=
  withinForm payload <| match payload with
    | n :: rest => if rest.length = 3 * n.toNat then settingPairsOf rest else none
    | [] => none

/-- IDLE-TEXT: target and text. -/
def idleTextRequestOf (payload : List Byte) : Option (Byte × Text) :=
  withinForm payload <| match payload with
    | target :: rest => (textOf rest).map (target, ·)
    | [] => none

/-- RESET-HUB: 1 SOFT, 2 FULL (section 11.3). -/
def resetKindOf : List Byte → Option ResetKind
  | [b] => if b = 1 then some .soft else if b = 2 then some .full else none
  | _ => none

/-! ### Events and answers of the counter bus -/

/-- The fourteen keys (section 2.1). -/
inductive Key where
  | digit (d : Nat)
  | enter
  | clear
  | cancel
  | call
  deriving DecidableEq, Repr

/-- The key of a key code 0..13 (section 11.6). -/
def keyOfCode (b : Byte) : Option Key :=
  if b.toNat ≤ 9 then some (.digit b.toNat)
  else match b.toNat with
    | 10 => some .enter
    | 11 => some .clear
    | 12 => some .cancel
    | 13 => some .call
    | _ => none

/-- The events of devices (R135); `unknown` is an event whose code or coding the table does not define (R193). -/
inductive Event where
  | key (key : Key)
  | count (n : Nat)
  | sealedBlock (n : Nat) (block : List Byte)
  | cardIn
  | track (chars : List Nat) (check : Nat)
  | trackError (kind : TrackError)
  | cardOut
  | fault (code : Byte)
  | unknown
  deriving DecidableEq, Repr

def trackErrorOf (b : Byte) : Option TrackError :=
  if b = 1 then some .noData else if b = 2 then some .format else if b = 3 then some .overlong
  else if b = 4 then some .withdrawn else none

/-- What reading one event gives: too few bytes, a coding the table does not define, or the event and the rest. -/
inductive EventRead where
  | short
  | undefinedCoding
  | read (event : Event) (rest : List Byte)
  deriving DecidableEq, Repr

/-- Reads the fields of an event of a code (section 11.6, R193). A TRACK whose bytes run short and which holds a
character above 15 as well is judged by its length, and so makes a miss; R193 does not say which of its two cases comes
first (DESIGN CHOICE, log 30). -/
def readEvent (code : Byte) (l : List Byte) : EventRead :=
  match code.toNat with
  | 1 =>
    match l with
    | [] => .short
    | b :: rest =>
      match keyOfCode b with
      | some k => .read (.key k) rest
      | none => .undefinedCoding
  | 2 =>
    match l with
    | [] => .short
    | b :: rest => .read (.count b.toNat) rest
  | 3 =>
    match l with
    | [] => .short
    | b :: rest =>
      match takeBytes 16 rest with
      | some (block, after) => .read (.sealedBlock b.toNat block) after
      | none => .short
  | 4 => .read .cardIn l
  | 5 =>
    match l with
    | [] => .short
    | n :: rest =>
      match takeBytes (n.toNat + 1) rest with
      | none => .short
      | some (body, after) =>
        let chars := (body.take n.toNat).map BitVec.toNat
        if chars.all (· ≤ 15) then .read (.track chars ((body.drop n.toNat).headD 0).toNat) after
        else .undefinedCoding
  | 6 =>
    match l with
    | [] => .short
    | b :: rest =>
      match trackErrorOf b with
      | some k => .read (.trackError k) rest
      | none => .undefinedCoding
  | 7 => .read .cardOut l
  | 8 =>
    match l with
    | [] => .short
    | b :: rest => if b = 0 then .undefinedCoding else .read (.fault b) rest
  | _ => .undefinedCoding

/-- Parses a number of events that fill the bytes; an undefined event runs to the end and must be the last (R193). -/
def eventsOf : Nat → List Byte → Option (List Event)
  | 0, [] => some []
  | 0, _ :: _ => none
  | _ + 1, [] => none
  | n + 1, code :: l =>
    match readEvent code l with
    | .short => none
    | .undefinedCoding => if n = 0 then some [.unknown] else none
    | .read e rest => (eventsOf n rest).map (e :: ·)

/-- The contents of an answer by the request answered (R135). -/
inductive Contents where
  | events (events : List Event)
  | identity (identity : Identity)
  | diag (payload : List Byte)
  deriving DecidableEq, Repr

/-- Whether a yes-or-no byte of an identity says yes; a byte neither 0 nor 1 has a free meaning (log 13). -/
def statesYes (b : Byte) : Bool := if b = 0 then false else if b = 1 then true else Config.unstatedYesNo b

/-- The contents as the request answered defines them (section 11.6). R193 judges an undefined event where it speaks of
the events of a POLL answer; the events of a PROBE or CONFIGURE answer are judged in the same way (DEDUCED, log 24). -/
def contentsOf (r : Request) (l : List Byte) : Option Contents :=
  match r with
  | .poll | .probe | .configure =>
    match l with
    | n :: rest => if n.toNat ≤ 4 then (eventsOf n.toNat rest).map .events else none
    | [] => none
  | .identify =>
    match l with
    | [kind, m0, m1, firmware, concealed] => some (.identity ⟨kind, m1 ++ m0, firmware, statesYes concealed⟩)
    | _ => none
  | .diag =>
    match l with
    | n :: rest => if n.toNat ≤ 40 ∧ rest.length = n.toNat then some (.diag rest) else none
    | [] => none
  | .resetDevice => none

/-- A good answer (R135). -/
structure Answer where
  status : DeviceStatus
  batch : Bool
  taken : Bool
  more : Bool
  contents : Contents
  deriving DecidableEq, Repr

/-- The status block; absent when a counted slot holds 0xFF (R193). -/
def statusOf (b k1 k2 k3 : Byte) : Option DeviceStatus :=
  let keys := [k1, k2, k3].take (b.toNat / 4 % 4)
  if keys.contains 0xFF then none else some ⟨b.getLsbD 0, b.getLsbD 1, keys⟩

/-- Judges an answer frame received in the window: good, or none for a miss (R136, R193). -/
def answerOf (p : Port) (r : Request) (frame : List Byte) : Option Answer :=
  match frame with
  | start :: address :: count :: rest =>
    let body := rest.take count.toNat
    if start = 0x5A ∧ address = addressByte p ∧ rest.length = count.toNat + 2
        ∧ rest.drop count.toNat = crcBytes (address :: count :: body) then
      match body with
      | st :: k1 :: k2 :: k3 :: flags :: contents =>
        match statusOf st k1 k2 k3, contentsOf r contents with
        | some d, some c => some ⟨d, flags.getLsbD 0, flags.getLsbD 1, flags.getLsbD 2, c⟩
        | _, _ => none
      | _ => none
    else none
  | _ => none

end Sys2Proof.Machine
end

