-- ==== Sys2Proof/Machine/Ports.lean ====
section
/-! DEFINITION. The ports: changes of a device's port state with their notices and due ticks (R128, R142, R143), and
the device command queue (R122 to R125). -/

namespace Sys2Proof.Machine

/-! ### Due ticks (R142, R143) -/

/-- For how many ticks a device has been due; absent when it is not due (R142, R144). -/
def State.waited (s : State) (p : Port) : Option Nat :=
  match s.due p with
  | some (.now n) => some n
  | some (.next _) | none => none

/-- The joined states (section 6.2). -/
def PortState.joined : PortState → Bool
  | .ready | .engaged | .dozing => true
  | .unpowered | .absent | .joining | .restarting | .held => false

/-- Whether the bus scheduler addresses a device of this state (R132). -/
def PortState.addressed : PortState → Bool
  | .unpowered | .held => false
  | .absent | .joining | .ready | .engaged | .dozing | .restarting => true

/-- The interval of a port state, in ms; draw is the station's draw-present flag (R142). JOINING is due at once. -/
def PortState.interval (draw : Bool) : PortState → Nat
  | .engaged => 20
  | .ready => 200
  | .dozing => 1000
  | .restarting => 100
  | .absent => if draw then 250 else 2000
  | .joining | .held | .unpowered => 0

/-- Makes a device due at once; one already due stays so from when it became due (R142, R143; log 17). -/
def State.dueNow (s : State) (p : Port) : State :=
  match s.due p with
  | some (.now _) => s
  | some (.next _) | none => s.setDue p (some (.now 0))

/-- The due tick becomes the earlier of the one held and the present tick plus d (R143); a device due now stays so. -/
def State.dueWithin (s : State) (p : Port) (d : Nat) : State :=
  match s.due p with
  | some (.now _) => s
  | some (.next t) => if distance s.tick t ≤ d then s else s.setDue p (some (.next (ahead s.tick d)))
  | none => s.setDue p (some (.next (ahead s.tick d)))

/-- The due tick after a change of port state (R143): nothing for a device not addressed, at once in JOINING, and
otherwise the earlier of the one held and the new state's interval. -/
def State.dueAfterChange (s : State) (p : Port) : State :=
  let st := (s.device p).state
  if !st.addressed then s.setDue p none
  else if st = .joining then s.dueNow p
  else s.dueWithin p (st.interval (s.supply (stationOf p)).draw)

/-- The due tick at the end of an exchange (R142): the interval of the state reached, unless the device is due at once
or not addressed. -/
def State.dueAfterExchange (s : State) (p : Port) : State :=
  let st := (s.device p).state
  if !st.addressed then s.setDue p none
  else if st = .joining || (s.waited p).isSome then s.dueNow p
  else s.setDue p (some (.next (ahead s.tick (st.interval (s.supply (stationOf p)).draw))))

/-! ### Port states (R128) -/

/-- Places or updates the DEVICE-CHANGE of a device (R128). -/
def State.noteDevice (s : State) (p : Port) (before after : PortState) (reason : DeviceReason) : State :=
  s.note (.deviceChange p)
    (fun i => match i with
      | .deviceChange q old _ _ n => .deviceChange q old after reason (bump n)
      | other => other)
    (.deviceChange p before after reason 1)

/-- Changes a device's port state: a request owed for the old state is dropped (R134), the due tick follows (R143),
and the DEVICE-CHANGE is placed (R128). -/
def State.changePort (s : State) (p : Port) (after : PortState) (reason : DeviceReason) : State :=
  let before := (s.device p).state
  (((s.modifyDevice p fun d => { d with state := after }).setOwed p none).dueAfterChange p).noteDevice p before after
    reason

/-! ### The command queue (R122 to R125) -/

/-- The class of a device command (R122). -/
def DeviceCommand.cls : DeviceCommand → CommandClass
  | .showText _ => .text
  | .beep _ => .beep
  | .concealBegin .. | .concealEnd => .conceal
  | .intakeOn | .intakeOff => .intake
  | .doze | .wake => .power

/-- Whether a class belongs to a kind of device (R122). -/
def CommandClass.belongs : CommandClass → DeviceKind → Bool
  | .text, .keypad | .beep, .keypad | .conceal, .keypad | .intake, .reader | .power, _ => true
  | .text, .reader | .beep, .reader | .conceal, .reader | .intake, .keypad => false

/-- What becomes of a command asked for (R122, R123): it stands in the queue, it is done already, or it is dropped. -/
inductive QueueOutcome where
  | queued | done | dropped
  deriving DecidableEq, Repr

/-- What a new command does to an uncarried one of its class (R123). -/
inductive Meeting where
  | keep | removeBoth | replace
  deriving DecidableEq, Repr

/-- The table of R123. -/
def meet (new old : DeviceCommand) : Meeting :=
  match new, old with
  | .beep _, .beep _ => .keep
  | .concealEnd, .concealBegin .. => .removeBoth
  | _, _ => .replace

/-- The outcome for the requester of the new command (R123). -/
def Meeting.outcome : Meeting → QueueOutcome
  | .keep => .dropped
  | .removeBoth => .done
  | .replace => .queued

/-- The new command meets the one of its class in the queue, in its place (R123). -/
def meetInQueue (q : Queued) : List Queued → List Queued
  | [] => []
  | x :: xs =>
    if x.command.cls = q.command.cls then
      match meet q.command x.command with
      | .keep => x :: xs
      | .removeBoth => xs
      | .replace => q :: xs
    else x :: meetInQueue q xs

/-- The queued command of a class. -/
def ofClass (c : CommandClass) (l : List Queued) : Option Queued := l.find? fun x => x.command.cls == c

/-- The new command of the class of the command in carriage (R124). -/
def Device.follow (d : Device) (q : Queued) : Device × QueueOutcome :=
  match q.command with
  | .beep _ => (d, .dropped)
  | _ =>
    match d.follower with
    | none => ({ d with follower := some q }, .queued)
    | some f =>
      match meet q.command f.command with
      | .keep => (d, .dropped)
      | .removeBoth => ({ d with follower := none }, .done)
      | .replace => ({ d with follower := some q }, .queued)

/-- Whether the head in carriage is of a class (R124). -/
def Device.carriesClass (d : Device) (c : CommandClass) : Bool :=
  d.inCarriage && d.queue.head?.any fun x => x.command.cls == c

/-- A device in a joined state accepts a command of its kind (R122, R123, R124). -/
def Device.accept (d : Device) (q : Queued) : Device × QueueOutcome :=
  if d.carriesClass q.command.cls then d.follow q
  else match ofClass q.command.cls d.queue with
    | some x => ({ d with queue := meetInQueue q d.queue }, (meet q.command x.command).outcome)
    | none => ({ d with queue := d.queue ++ [q] }, .queued)

/-- Whether accepting a command appends it, which makes the device due at once (R143). -/
def Device.appends (d : Device) (q : Queued) : Bool :=
  !d.carriesClass q.command.cls && (ofClass q.command.cls d.queue).isNone

/-- Whether the port manager accepts a command for a device (R122). -/
def State.acceptsCommand (s : State) (p : Port) (c : DeviceCommand) : Bool :=
  (s.device p).state.joined && c.cls.belongs (kindOf p)

/-- What becomes of a command asked of a device (R122). -/
def State.queueOutcome (s : State) (p : Port) (q : Queued) : QueueOutcome :=
  if s.acceptsCommand p q.command then ((s.device p).accept q).2 else .dropped

/-- Asks the port manager to queue a command for a device (R122). -/
def State.queueCommand (s : State) (p : Port) (q : Queued) : State :=
  if s.acceptsCommand p q.command then
    let s' := s.setDevice p ((s.device p).accept q).1
    if (s.device p).appends q then s'.dueNow p else s'
  else s

/-- Empties a device's queue and follower: every command in them is dropped (R125). -/
def Device.emptyQueue (d : Device) : Device := { d with queue := [], inCarriage := false, follower := none }

/-- Whether a command of the power class stands in the device's queue or follower (R112). -/
def Device.powerStands (d : Device) : Bool :=
  (ofClass .power d.queue).isSome || d.follower.any fun x => x.command.cls == .power

/-- Queues a text to a keypad that is READY or DOZING (R167, R168, R175). -/
def State.textToFreeKeypad (s : State) (st : Station) (t : Text) : State :=
  let p := keypadOf st
  if (s.device p).state = .ready ∨ (s.device p).state = .dozing then s.queueCommand p ⟨.showText t, .counter⟩ else s

/-- The station's idle text (R175). -/
def State.idleText (s : State) (st : Station) : Text := s.idleTexts[st.val]

end Sys2Proof.Machine
end

