-- ==== Sys2Proof/Machine/Sessions.lean ====
section
/-! DEFINITION. The session engine (chapters 01 to 03): the phases of a step, the ending of a session, its notices,
and what keys, concealed-entry reports and reader events do. -/

namespace Sys2Proof.Machine

/-! ### Reading a record -/

/-- The current step (R1). -/
def Session.step? (r : Session) : Option StepRecord := r.index.bind fun i => r.steps[i - 1]?

/-- Whether the current step is the last of the list (R16). -/
def Session.lastStep (r : Session) : Bool := r.index == some r.steps.length

/-- The step's time: the hold time for SHOW (R10). -/
def StepKind.time : StepKind → Nat
  | .card _ t | .entry _ _ _ _ _ _ t | .confirm t | .showText t => t

def StepKind.isCard : StepKind → Bool
  | .card .. => true
  | .entry .. | .confirm _ | .showText _ => false

def StepKind.isShow : StepKind → Bool
  | .showText _ => true
  | .card .. | .entry .. | .confirm _ => false

def StepKind.needsKeypad : StepKind → Bool
  | .card .. => false
  | .entry .. | .confirm _ | .showText _ => true

def StepKind.isConcealed : StepKind → Bool
  | .entry .concealed .. => true
  | .entry .plain .. | .card .. | .confirm _ | .showText _ => false

/-- Whether a device is ENGAGED; it is then engaged in its station's session (R7). -/
def State.engaged (s : State) (p : Port) : Bool := (s.device p).state == .engaged

/-- The bounds of a CONCEALED step: its own range, or its intersection with the policy copy's concealed range (R43).
-/
def Session.entryBounds (r : Session) : StepKind → Nat × Nat
  | .entry _ lo hi true .. =>
    match r.policyCopy with
    | some e => (max lo e.policy.concealedMin, min hi e.policy.concealedMax)
    | none => (lo, hi)
  | .entry _ lo hi false .. => (lo, hi)
  | .card .. | .confirm _ | .showText _ => (0, 0)

/-- Whether the entry to STARTING finds an empty intersection (R44). -/
def Session.policyConflict (r : Session) (k : StepKind) : Bool :=
  k.isConcealed && (r.entryBounds k).2 < (r.entryBounds k).1

/-! ### Notices (R26, R27) -/

/-- The count of PROGRESS by step kind (R26). -/
def Session.progressCount (r : Session) : Nat :=
  match r.step? with
  | some ⟨_, .card ..⟩ => r.attemptsUsed
  | some ⟨_, .entry .plain ..⟩ => r.entryBuffer.length
  | some ⟨_, .entry .concealed ..⟩ => r.concealedCount
  | some ⟨_, .confirm _⟩ | some ⟨_, .showText _⟩ | none => 0

/-- The remaining tenths of PROGRESS by phase (R26, R99). -/
def State.progressRemaining (s : State) (st : Station) : Nat :=
  let r := s.session st
  match r.phase with
  | some .starting => (r.step?.map (·.kind.time)).getD 0
  | some .waitingClear | some .active => ((s.deadlineOf (.session st) .step).map (remainingTenths s.tick)).getD 0
  | some .delivering | none => 0

/-- The station's PROGRESS as it stands now (R26). -/
def State.progressItem (s : State) (st : Station) (tag index : Nat) (phase : Phase) : Item :=
  let r := s.session st
  .progress st tag index phase r.progressCount r.warned (s.progressRemaining st)

/-- Creates or overwrites the station's PROGRESS (R27). -/
def State.putProgress (s : State) (st : Station) : State :=
  let r := s.session st
  match r.tag, r.index, r.phase with
  | some tag, some index, some phase =>
    let i := s.progressItem st tag index phase
    s.note (.progress st) (fun _ => i) i
  | _, _, _ => s

/-- PROGRESS at a phase change or a warning: in modes PHASES and ALL (R26). -/
def State.noteProgress (s : State) (st : Station) : State :=
  match (s.session st).mode with
  | some .phases | some .all => s.putProgress st
  | some .off | none => s

/-- PROGRESS at a change of the count: in mode ALL (R26). -/
def State.noteCount (s : State) (st : Station) : State :=
  match (s.session st).mode with
  | some .all => s.putProgress st
  | some .phases | some .off | none => s

/-! ### Queuing on behalf of a session (R122) -/

/-- Queues a command the session does not wait on (R38, R42). -/
def State.sessionQueue (s : State) (st : Station) (p : Port) (c : DeviceCommand) : State :=
  s.queueCommand p ⟨c, .session st (s.session st).serial .other⟩

/-- Queues a command the session waits on: a setup command of R9 or a wind-down command of R20. A dropped command, and
one that is done at once, is not waited on (R122, R123). -/
def State.sessionAwait (s : State) (st : Station) (p : Port) (c : DeviceCommand) (purpose : Purpose) : State :=
  let q : Queued := ⟨c, .session st (s.session st).serial purpose⟩
  let s' := s.queueCommand p q
  if s.queueOutcome p q = .queued then s'.modifySession st fun r => { r with waits := r.waits ++ [⟨p, c.cls⟩] } else s'

/-- Queues BEEP(ERROR) or BEEP(WARN) while the keypad is ENGAGED (R42). -/
def State.beep (s : State) (st : Station) (k : BeepKind) : State :=
  if s.engaged (keypadOf st) then s.sessionQueue st (keypadOf st) (.beep k) else s

/-- Queues a text to the keypad while it is ENGAGED. -/
def State.sessionText (s : State) (st : Station) (t : Text) : State :=
  if s.engaged (keypadOf st) then s.sessionQueue st (keypadOf st) (.showText t) else s

/-- Line 1 of an ENTRY step: the first 20 characters of the prompt, padded with spaces (R32). -/
def entryLine (prompt : Text) : Text := prompt.take 20 ++ List.replicate (20 - prompt.length) 32

/-- The codes of digits as characters. -/
def digitChars (d : Digits) : Text := d.map fun n => BitVec.ofNat 8 (48 + n)

/-- The retry text: "REMOVE CARD", nine spaces, "AND RETRY" (R61). -/
def retryText : Text :=
  [82, 69, 77, 79, 86, 69, 32, 67, 65, 82, 68] ++ List.replicate 9 32 ++ [65, 78, 68, 32, 82, 69, 84, 82, 89]

/-! ### The end of a session (R19 to R21) -/

/-- Queues the wind-down commands, in the order of R20, to the devices still ENGAGED. -/
def State.windDown (s : State) (st : Station) : State :=
  let reader := readerOf st
  let keypad := keypadOf st
  let s1 :=
    if s.engaged reader && (s.session st).readerIntake then
      (s.sessionAwait st reader .intakeOff .windDown).modifySession st fun r => { r with readerIntake := false }
    else s
  let s2 :=
    if s1.engaged keypad && (s1.session st).concealedOpen then
      (s1.sessionAwait st keypad .concealEnd .windDown).modifySession st fun r => { r with concealedOpen := false }
    else s1
  if s2.engaged keypad then
    s2.sessionAwait st keypad (.showText (if s2.counter = .orphaned then s2.closedText else s2.idleText st)) .windDown
  else s2

/-- Returns a device still ENGAGED to READY (R21, R120). -/
def State.releasePort (s : State) (p : Port) : State :=
  if s.engaged p then s.changePort p .ready .sessionEnded else s

/-- The record of a session that has ended: IDLE, the last tag and cause recorded (R21). -/
def Session.ended (r : Session) : Session :=
  { Session.blank with lastTag := r.tag, lastCause := r.endCause, serial := r.serial }

/-- The text a station is owed, when the counter is in the state that calls for it: the idle text in OPEN (R168), the
closed text in ORPHANED (row 7 of R180, log 27). -/
def State.owedText (s : State) (st : Station) : Option Text :=
  match s.textOwed[st.val], s.counter with
  | some .idle, .opened => some (s.idleText st)
  | some .closed, .orphaned => some s.closedText
  | _, _ => none

/-- A station is owed no text any more as its session returns to IDLE; the text it was owed is queued to a READY
keypad (R168, R180). -/
def State.settleTextOwed (s : State) (st : Station) : State :=
  let s' := { s with textOwed := s.textOwed.set st.val none }
  match s.owedText st with
  | some x =>
    if (s.device (keypadOf st)).state = .ready then s'.queueCommand (keypadOf st) ⟨.showText x, .counter⟩ else s'
  | none => s'

/-- The completion of ENDING, in the order of R21: SESSION-END, the devices handed back reader first, the record
returned to IDLE. -/
def State.completeEnding (s : State) (st : Station) : State :=
  let r := s.session st
  let s1 := match r.tag, r.endCause with
    | some tag, some cause => s.append (.sessionEnd st tag cause)
    | _, _ => s
  let s2 := (s1.releasePort (readerOf st)).releasePort (keypadOf st)
  (s2.modifySession st Session.ended).settleTextOwed st

/-- Whether ENDING is complete: no wind-down command waited on, no pending result, nothing outstanding (R21). -/
def State.endingComplete (s : State) (st : Station) : Bool :=
  let r := s.session st
  r.state == .ending && r.waits.isEmpty && r.pendingResult.isNone && !s.outstanding st

def State.tryComplete (s : State) (st : Station) : State :=
  if s.endingComplete st then s.completeEnding st else s

/-- The entry data discarded (R15, R19). -/
def Session.discardEntry (r : Session) : Session :=
  { r with entryBuffer := [], concealedCount := 0, sealedBlock := none }

/-- The record's entry to ENDING (R19). From DELIVERING the step's result is kept (R25). -/
def Session.toEnding (cause : EndCause) (r : Session) : Session :=
  let r' := if r.phase = some .delivering then r else r.discardEntry
  { r' with state := .ending, endCause := some cause, deferredCause := none, phase := none, waits := [] }

/-- The entry to ENDING (R19, R20), which completes at once when nothing is waited on (R21). -/
def State.enterEnding (s : State) (st : Station) (cause : EndCause) : State :=
  (((s.modifySession st (Session.toEnding cause)).removeSessionDeadlines st).windDown st).tryComplete st

/-! ### Delivery (R13 to R17) -/

/-- Places a STEP-RESULT: the entry data leave the record (R15). -/
def State.placeResult (s : State) (st : Station) (r : StepResult) : State :=
  (s.append (.stepResult r)).modifySession st fun x => { x.discardEntry with pendingResult := none }

/-- Offers a STEP-RESULT for placing under the delivery rule (R13, R14). -/
def State.offerResult (s : State) (st : Station) (r : StepResult) : State :=
  if s.outstanding st then s.modifySession st fun x => { x with pendingResult := some r } else s.placeResult st r

/-- A step that delivers: its deadlines removed, DELIVERING entered with its PROGRESS, its STEP-RESULT formed and
offered (R12, R13, R28). -/
def State.deliver (s : State) (st : Station) (data : ResultData) : State :=
  let s1 := (s.removeSessionDeadlines st).modifySession st fun r => { r with phase := some .delivering }
  let s2 := s1.noteProgress st
  let r := s2.session st
  match r.tag, r.index with
  | some tag, some index => s2.offerResult st ⟨st, tag, index, data⟩
  | _, _ => s2

/-- Places the pending result once nothing of the station is outstanding (R14). -/
def State.placePending (s : State) (st : Station) : State :=
  match (s.session st).pendingResult with
  | some r => if s.outstanding st then s else s.placeResult st r
  | none => s

/-! ### The phases of a step (R8 to R11) -/

/-- The working fields at a step's entry to STARTING (R8, R39, R60). -/
def Session.toStarting (i : Nat) (r : Session) : Session :=
  { r.discardEntry with
    index := some i, phase := some .starting, attemptsUsed := 0, extension := 0, warned := false,
    firstKeyTaken := false, retryWait := false, cardRefused := false, waits := [] }

/-- Queues the setup commands of a step, in the order of R9. -/
def State.queueSetup (s : State) (st : Station) (x : StepRecord) : State :=
  let keypad := keypadOf st
  match x.kind with
  | .card .. =>
    let s1 := (s.sessionAwait st (readerOf st) .intakeOn .setup).modifySession st fun r => { r with readerIntake := true }
    if !x.prompt.isEmpty && s1.engaged keypad then s1.sessionAwait st keypad (.showText x.prompt) .setup else s1
  | .entry .plain .. => s.sessionAwait st keypad (.showText (entryLine x.prompt)) .setup
  | .entry .concealed .. =>
    let bounds := (s.session st).entryBounds x.kind
    ((s.sessionAwait st keypad (.showText (entryLine x.prompt)) .setup).sessionAwait st keypad
      (.concealBegin bounds.1 bounds.2) .setup).modifySession st fun r => { r with concealedOpen := true }
  | .confirm _ => if x.prompt.isEmpty then s else s.sessionAwait st keypad (.showText x.prompt) .setup
  | .showText _ => s.sessionAwait st keypad (.showText x.prompt) .setup

/-- The device whose status can hold a step in WAITING-CLEAR (R10). -/
def blockingPort (st : Station) : StepKind → Option Port
  | .card .. => some (readerOf st)
  | .entry .. | .confirm _ => some (keypadOf st)
  | .showText _ => none

/-- Whether a status shows the blocking condition of a step (R10). -/
def blocks : StepKind → DeviceStatus → Bool
  | .card .., d => d.cardPresent
  | .entry .., d | .confirm _, d => !d.keysHeld.isEmpty
  | .showText _, _ => false

/-- Whether the latest status of the blocking device shows the condition (R10). -/
def State.blocked (s : State) (st : Station) (k : StepKind) : Bool :=
  (blockingPort st k).any fun p => (s.device p).status.any (blocks k)

/-- The first-key time of an ENTRY step, 0 for the others (R10). -/
def StepKind.firstKeyTime : StepKind → Nat
  | .entry _ _ _ _ f _ _ => f
  | .card .. | .confirm _ | .showText _ => 0

/-- The inter-key time of an ENTRY step, 0 for the others (R40). -/
def StepKind.interKeyTime : StepKind → Nat
  | .entry _ _ _ _ _ i _ => i
  | .card .. | .confirm _ | .showText _ => 0

/-- Places the deadlines of a step at the end of STARTING (R10, R101). -/
def State.placeStepDeadlines (s : State) (st : Station) (k : StepKind) : State :=
  let lead := s.settings.warnLead
  let s1 := s.placeDeadline (.session st) .step (k.time * Config.ticksPerTenth)
  let s2 :=
    if !k.isShow && lead != 0 && lead < k.time then
      s1.placeDeadline (.session st) .warn ((k.time - lead) * Config.ticksPerTenth)
    else s1
  if k.firstKeyTime = 0 then s2 else s2.placeDeadline (.session st) .key (k.firstKeyTime * Config.ticksPerTenth)

/-- The end of STARTING (R10). -/
def State.endStarting (s : State) (st : Station) : State :=
  match (s.session st).step? with
  | none => s
  | some x =>
    let s1 := s.placeStepDeadlines st x.kind
    let next : Phase := if s1.blocked st x.kind then .waitingClear else .active
    (s1.modifySession st fun r => { r with phase := some next }).noteProgress st

/-- A step enters STARTING (R8, R9); an empty intersection of bounds ends the session (R44), and a step with no setup
command ends STARTING at once (R10). -/
def State.enterStarting (s : State) (st : Station) (i : Nat) : State :=
  let s1 := (s.modifySession st (Session.toStarting i)).noteProgress st
  match (s1.session st).step? with
  | none => s1
  | some x =>
    if (s1.session st).policyConflict x.kind then s1.enterEnding st .policyConflict
    else
      let s2 := s1.queueSetup st x
      if (s2.session st).waits.isEmpty then s2.endStarting st else s2

/-- A wait removed from a record. -/
def Session.waitDone (p : Port) (c : CommandClass) (r : Session) : Session :=
  { r with waits := r.waits.filter fun w => !(w.port == p && w.cls == c) }

/-- The port manager reports that a command of the session was taken (R10, R21, R22). -/
def State.sessionTold (s : State) (st : Station) (serial : Nat) (purpose : Purpose) (p : Port) (c : CommandClass) :
    State :=
  let r := s.session st
  if r.serial != serial then s
  else match purpose with
    | .setup =>
      if r.state = .running ∧ r.phase = some .starting then
        let s1 := s.modifySession st (Session.waitDone p c)
        if (s1.session st).waits.isEmpty then s1.endStarting st else s1
      else s
    | .windDown => if r.state = .ending then (s.modifySession st (Session.waitDone p c)).tryComplete st else s
    | .other => s

/-- A good answer's status reaches a session in WAITING-CLEAR; ACTIVE begins when the condition has gone (R11, R58).
-/
def State.statusToSession (s : State) (p : Port) (d : DeviceStatus) : State :=
  let st := stationOf p
  let r := s.session st
  if r.state = .running ∧ r.phase = some .waitingClear then
    match r.step? with
    | some x =>
      if blockingPort st x.kind = some p ∧ !blocks x.kind d then
        (s.modifySession st fun r => { r with phase := some .active }).noteProgress st
      else s
    | none => s
  else s

/-! ### Results that have left the line (R16, R190) -/

/-- The end of DELIVERING (R16). -/
def State.endDelivering (s : State) (st : Station) : State :=
  let r := s.session st
  if r.cardRefused then s.enterEnding st .cardRefused
  else match r.deferredCause with
    | some c => s.enterEnding st c
    | none =>
      if r.lastStep then s.enterEnding st .completed else s.enterStarting st (r.index.getD 0 + 1)

/-- A STEP-RESULT of the station has left the line (R16, R21, R22). A session whose result is still pending waits for
an earlier notice of the station, not for this result. -/
def State.resultLeft (s : State) (st : Station) : State :=
  let r := s.session st
  if r.state = .running ∧ r.phase = some .delivering ∧ r.pendingResult.isNone then s.endDelivering st else s

/-- What follows when a STEP-RESULT or SESSION-END of the station has left the line: a pending result may be placed,
and ENDING may be complete (R14, R21). -/
def State.stationLineFree (s : State) (st : Station) : State := (s.placePending st).tryComplete st

/-! ### Loss of a device or of the workstation (R24, R25) -/

/-- The port manager reports an ENGAGED device lost (R24; in ENDING R22). -/
def State.sessionLoss (s : State) (p : Port) : State :=
  let st := stationOf p
  let r := s.session st
  match r.state, r.phase with
  | .running, some .delivering =>
    if r.lastStep || r.cardRefused || r.deferredCause.isSome then s
    else s.modifySession st fun x => { x with deferredCause := some .deviceLost }
  | .running, _ => s.enterEnding st .deviceLost
  | .ending, _ =>
    (s.modifySession st fun x => { x with waits := x.waits.filter fun w => w.port != p }).tryComplete st
  | .idle, _ => s

/-- Every RUNNING session enters ENDING with WORKSTATION-LOST (R25), in station order, which R167 leaves open (DESIGN
CHOICE, log 28). One whose refused CARD step delivers is among them: R25 says whatever its phase, against the
CARD-REFUSED in every case of R17 (DESIGN CHOICE, log 29). -/
def State.loseWorkstation (s : State) : State :=
  s.forStations fun st s => if (s.session st).state = .running then s.enterEnding st .workstationLost else s

/-! ### Keys (R31 to R37, R49, R50, R52) -/

/-- An accepted key: first key taken, and the key timing taken anew (R39, R40). -/
def State.acceptKey (s : State) (st : Station) (k : StepKind) : State :=
  let s1 := s.modifySession st fun r => { r with firstKeyTaken := true }
  if k.interKeyTime = 0 then s1.removeDeadline (.session st) .key
  else s1.placeDeadline (.session st) .key (k.interKeyTime * Config.ticksPerTenth)

/-- The echo of a plain entry (R32, R38). -/
def State.echo (s : State) (st : Station) (prompt : Text) : State :=
  s.sessionText st (entryLine prompt ++ digitChars (s.session st).entryBuffer)

/-- A change of the entry buffer with what follows it (R34, R35). -/
def State.changeBuffer (s : State) (st : Station) (x : StepRecord) (buffer : Digits) : State :=
  (((s.modifySession st fun r => { r with entryBuffer := buffer }).acceptKey st x.kind).echo st x.prompt).noteCount st

/-- A key in ACTIVE of a PLAIN entry (R34 to R37). -/
def State.plainKey (s : State) (st : Station) (x : StepRecord) (lo hi : Nat) (key : Key) : State :=
  let buffer := (s.session st).entryBuffer
  match key with
  | .digit d => if buffer.length < hi then s.changeBuffer st x (buffer ++ [d]) else s.beep st .error
  | .clear => if buffer.isEmpty then s.beep st .error else s.changeBuffer st x buffer.dropLast
  | .enter => if lo ≤ buffer.length then s.deliver st (.entryPlain buffer) else s.beep st .error
  | .cancel => s.enterEnding st .cancelledCustomer
  | .call => s.beep st .error

/-- A key in ACTIVE of a CONFIRM step (R52). -/
def State.confirmKey (s : State) (st : Station) (key : Key) : State :=
  match key with
  | .enter => s.deliver st .confirmOk
  | .cancel => s.enterEnding st .cancelledCustomer
  | .digit _ | .clear | .call => s.beep st .error

/-- A key in ACTIVE of the current step (R31); none is a protocol violation handed back (R49). -/
def State.activeKey (s : State) (st : Station) (x : StepRecord) (key : Key) : Option State :=
  match x.kind with
  | .entry .plain lo hi .. => some (s.plainKey st x lo hi key)
  | .entry .concealed .. =>
    match key with
    | .cancel => some (s.enterEnding st .cancelledCustomer)
    | .call => some (s.beep st .error)
    | .digit _ | .enter | .clear => none
  | .confirm _ => some (s.confirmKey st key)
  | .card .. => some (if key = .cancel then s.enterEnding st .cancelledCustomer else s)
  | .showText _ => some s

/-- A KEY event reaches the station's session (R31); none is a protocol violation. -/
def State.sessionKey (s : State) (st : Station) (key : Key) : Option State :=
  let r := s.session st
  match r.state, r.phase, r.step? with
  | .running, some .active, some x => s.activeKey st x key
  | .running, some .waitingClear, some x =>
    some (if key = .cancel ∧ !x.kind.isShow then s.enterEnding st .cancelledCustomer else s)
  | _, _, _ => some s

/-! ### Concealed entry (R45 to R48, R51) -/

/-- The running concealed entry's step: a CONCEALED step in WAITING-CLEAR or ACTIVE (R45). -/
def Session.concealedRunning (r : Session) : Option StepKind :=
  match r.state, r.phase, r.step? with
  | .running, some .waitingClear, some x => if x.kind.isConcealed then some x.kind else none
  | .running, some .active, some x => if x.kind.isConcealed then some x.kind else none
  | _, _, _ => none

/-- A COUNT within the upper bound (R46). -/
def State.takeCount (s : State) (st : Station) (k : StepKind) (n : Nat) : State :=
  let r := s.session st
  let s1 := s.modifySession st fun r => { r with concealedCount := n }
  let s2 := if n = 0 ∧ r.firstKeyTaken = false then s1 else s1.acceptKey st k
  if n = r.concealedCount then s2 else s2.noteCount st

/-- A COUNT report reaches the station's session; none is a fault (R46, R48), and outside a running entry it is
discarded (R51). -/
def State.sessionCount (s : State) (st : Station) (n : Nat) : Option State :=
  let r := s.session st
  match r.concealedRunning with
  | none => some s
  | some k => if n ≤ (r.entryBounds k).2 then some (s.takeCount st k n) else none

/-- A SEALED within the bounds: the step delivers (R47). -/
def State.takeSealed (s : State) (st : Station) (n : Nat) (block : List Byte) : State :=
  (s.modifySession st fun r =>
    { r with sealedBlock := some ⟨n, block⟩, concealedCount := n, concealedOpen := false }).deliver st
      (.entryConcealed n block)

/-- A SEALED report reaches the station's session; none is a fault (R47, R48), and outside a running entry it is
discarded (R51). -/
def State.sessionSealed (s : State) (st : Station) (n : Nat) (block : List Byte) : Option State :=
  let r := s.session st
  match r.concealedRunning with
  | none => some s
  | some k =>
    if (r.entryBounds k).1 ≤ n ∧ n ≤ (r.entryBounds k).2 then some (s.takeSealed st n block) else none

/-! ### Reader events (R56, R59 to R64) -/

/-- A read error (R61). -/
def State.readError (s : State) (st : Station) (attempts : Nat) : State :=
  let s1 := s.modifySession st fun r => { r with attemptsUsed := r.attemptsUsed + 1 }
  if (s1.session st).attemptsUsed < attempts then
    (((s1.modifySession st fun r => { r with retryWait := true }).noteCount st).beep st .error).sessionText st retryText
  else s1.enterEnding st .readFailed

/-- INTAKE-OFF queued, and reader intake OFF (R63, R64). -/
def State.stopIntake (s : State) (st : Station) : State :=
  (s.sessionQueue st (readerOf st) .intakeOff).modifySession st fun r => { r with readerIntake := false }

/-- An accepted card (R63). -/
def State.cardAccepted (s : State) (st : Station) (card : CardRecord) (e : PolicyEntry) : State :=
  ((s.stopIntake st).modifySession st fun r => { r with cardRecord := some card, policyCopy := some e }).deliver st
    (.cardOk card e.key)

/-- A refused card (R64, R17). -/
def State.refuseCard (s : State) (st : Station) (reason : RefusalReason) : State :=
  ((s.stopIntake st).modifySession st fun r => { r with cardRefused := true }).deliver st (.cardRefused reason)

/-- A TRACK judged by the card evaluator (R59). -/
def State.takeTrack (s : State) (st : Station) (attempts : Nat) (chars : List Nat) (check : Nat) : State :=
  match evaluate s.policy s.defaultPolicy s.businessMonth chars check with
  | .readError => s.readError st attempts
  | .refused reason => s.refuseCard st reason
  | .accepted card e => s.cardAccepted st card e

/-- The end of the retry wait (R62). -/
def State.endRetryWait (s : State) (st : Station) (prompt : Text) : State :=
  (s.modifySession st fun r => { r with retryWait := false }).sessionText st prompt

/-- A reader event in ACTIVE of a CARD step (R59); every other event is discarded (R56). -/
def State.sessionReader (s : State) (st : Station) (e : Event) : State :=
  let r := s.session st
  match r.state, r.phase, r.step? with
  | .running, some .active, some ⟨prompt, .card attempts _⟩ =>
    match e, r.retryWait with
    | .track chars check, false => s.takeTrack st attempts chars check
    | .trackError _, false => s.readError st attempts
    | .cardOut, true => s.endRetryWait st prompt
    | _, _ => s
  | _, _, _ => s

end Sys2Proof.Machine
end

