-- ==== Sys2Proof/Machine/Controller.lean ====
section
/-! DEFINITION. The counter controller's transitions (chapter 09): COUNTER-CHANGE, the end of STARTING, supervision,
lull and wake. -/

namespace Sys2Proof.Machine

/-! ### COUNTER-CHANGE (R163) -/

/-- Whether a reason carries the wake cause (R163). -/
def CounterReason.carriesWake : CounterReason → Bool
  | .woken | .opened | .settled => true
  | .powerOn | .softReset | .fullReset | .startComplete | .startCap | .dozed | .closeCommand | .supervisionExpired
  | .reopened => false

/-- Places or updates the COUNTER-CHANGE (R163). -/
def State.noteCounter (s : State) (before after : CounterState) (reason : CounterReason) : State :=
  let cause := if reason.carriesWake then s.wakeCause else none
  s.note .counterChange
    (fun i => match i with
      | .counterChange old _ _ _ n => .counterChange old after reason cause (bump n)
      | other => other)
    (.counterChange before after reason cause 1)

/-- Changes the counter state and places the notice. -/
def State.changeCounter (s : State) (after : CounterState) (reason : CounterReason) : State :=
  { s with counter := after }.noteCounter s.counter after reason

/-! ### Supervision (R166) -/

/-- The supervision period in force, in ticks. -/
def State.supervisionTicks (s : State) : Nat := s.settings.supervision * Config.ticksPerSecond

/-- Places the SUPERVISION entry at the period in force (R166). -/
def State.placeSupervision (s : State) : State := s.placeDeadline .counter .supervision s.supervisionTicks

/-- Removes the SUPERVISION entry (R166). -/
def State.removeSupervision (s : State) : State := s.removeDeadline .counter .supervision

def State.removeSettle (s : State) : State := s.removeDeadline .counter .settle

def State.clearTextOwed (s : State) : State := { s with textOwed := Vector.replicate 8 none }

def State.clearAwaiting (s : State) : State := { s with awaiting := Vector.replicate 16 false }

/-! ### STARTING (R164, R165) -/

/-- STARTING ends in OPEN (R165). -/
def State.openFromStarting (s : State) (reason : CounterReason) : State :=
  (s.changeCounter .opened reason).removeSettle.clearAwaiting

/-- Whether no address is still to be probed. -/
def State.noneAwaited (s : State) : Bool := ports.all fun p => !s.awaiting[p.val]

/-- STARTING ends when the awaiting-probe set is empty (R165); its notice stands behind those of the event that empties
the set (log 11). -/
def State.openIfProbed (s : State) : State :=
  if s.counter = .starting ∧ s.noneAwaited then s.openFromStarting .startComplete else s

/-- A device leaves the awaiting-probe set (R165); a device that is not in it changes nothing. -/
def State.leaveAwaiting (s : State) (p : Port) : State :=
  if s.awaiting[p.val] then { s with awaiting := s.awaiting.set p.val false }.openIfProbed else s

/-- Both devices of a station leave the awaiting-probe set when its supply enters OFF or LOCKED (R165). They leave
together: the counter opens once both are out. -/
def State.leaveAwaitingStation (s : State) (st : Station) : State :=
  if s.awaiting[(readerOf st).val] || s.awaiting[(keypadOf st).val] then
    { s with awaiting := (s.awaiting.set (readerOf st).val false).set (keypadOf st).val false }.openIfProbed
  else s

/-! ### Lull and wake (R121, R170 to R172) -/

/-- Asks the port manager to doze the devices (R121). -/
def State.dozeDevices (s : State) : State :=
  s.forPorts fun p s => if (s.device p).state = .ready then s.queueCommand p ⟨.doze, .counter⟩ else s

/-- Whether a device's queue or follower holds a DOZE (R121). -/
def Device.holdsDoze (d : Device) : Bool :=
  (d.queue.any fun x => x.command == .doze) || d.follower.any fun x => x.command == .doze

/-- Asks the port manager to wake the devices (R121). -/
def State.wakeDevices (s : State) : State :=
  s.forPorts fun p s =>
    let d := s.device p
    if d.state = .dozing ∨ (d.state = .ready ∧ d.holdsDoze) then s.queueCommand p ⟨.wake, .counter⟩ else s

/-- The settle time of WAKING, in ms (R174). -/
def State.settleTicks (s : State) : Nat := Config.settleTimes.getD s.settings.settleSelect 1000

/-- The entry to WAKING up to its notice: the wake cause, SETTLE, SUPERVISION, COUNTER-CHANGE (R170, R172). -/
def State.enterWaking (s : State) (cause : WakeCause) (reason : CounterReason) : State :=
  ({ s with wakeCause := some cause }.placeDeadline .counter .settle s.settleTicks).placeSupervision.changeCounter
    .waking reason

/-- A wake from LULL (R170). -/
def State.wake (s : State) (cause : WakeCause) : State := (s.enterWaking cause .woken).wakeDevices

/-- Whether a station's wake mask admits a cause (R170). -/
def WakeFlags.admits (m : WakeFlags) : WakeKind → Bool
  | .card => m.card
  | .callKey => m.callKey || m.anyKey
  | .key => m.anyKey
  | .deviceJoin => m.join
  | .workstation => true

/-- An event offered to the controller as a wake: taken in LULL when the mask admits it (R170). -/
def State.offerWake (s : State) (st : Station) (k : WakeKind) : State :=
  if s.counter = .lull ∧ s.wakeMask[st.val].admits k then s.wake ⟨k, some st⟩ else s

/-- The SETTLE entry has fallen due in WAKING (R171). -/
def State.settleComplete (s : State) : State := s.changeCounter .opened .settled

/-! ### ORPHANED (R167, R168) -/

/-- The idle-text-owed set is emptied as SUPERVISION falls due (R167 step 1). A station of the set whose keypad is still
ENGAGED is owed the closed text instead: row 7 of R180 gives it to that keypad as a READY one, and step 4 of R167 does
not reach it (DEDUCED, log 27). -/
def State.orphanTexts (s : State) : State :=
  { s with
    textOwed := Vector.ofFn fun st : Station =>
      if s.textOwed[st.val] = some .idle ∧ (s.device (keypadOf st)).state = .engaged then some .closed else none }

/-- The workstation is lost (R167). The closed text goes at once to the keypads that are READY or DOZING. -/
def State.enterOrphaned (s : State) : State :=
  let s1 := (s.removeSettle.clearAwaiting.orphanTexts).changeCounter .orphaned .supervisionExpired
  s1.loseWorkstation.forStations fun st s => s.textToFreeKeypad st s.closedText

/-- The counter reopens (R168). -/
def State.reopen (s : State) : State :=
  let s1 := (s.changeCounter .opened .reopened).placeSupervision
  (s1.forStations fun st s => s.textToFreeKeypad st (s.idleText st)).forStations fun st s =>
    if (s.session st).state = .ending then { s with textOwed := s.textOwed.set st.val (some .idle) } else s

end Sys2Proof.Machine
end

