-- ==== Sys2Proof/Machine/PortManager.lean ====
section
/-! DEFINITION. The port manager (chapter 06): joining, misses, faults and restarts, power, and the taking of an
answer with its events; and what the bus scheduler does with the end of an exchange (R137 to R141, R146). -/

namespace Sys2Proof.Machine

/-! ### Faults and restarts (R112 to R114) -/

/-- The DEVICE-CHANGE reason of a fault (R128). -/
def LastFault.reason : LastFault → DeviceReason
  | .misses => .misses
  | .device _ => .fault
  | .track _ | .protocol => .protocol

/-- Sets a device aside as HELD (R117). -/
def State.hold (s : State) (p : Port) (why : HeldReason) (reason : DeviceReason) : State :=
  (s.modifyDevice p fun d => { d with heldReason := some why }).changePort p .held reason

/-- Asks for a RESET-DEVICE, due at once, and places the restart window (R114, R134). -/
def State.askReset (s : State) (p : Port) : State :=
  ((s.setOwed p (some .resetDevice)).dueNow p).placeDeadline (.device p) .device Config.restartWindow

/-- The restart step on a fault of a joined device (R113, R114). -/
def State.restartOnFault (s : State) (p : Port) (reason : DeviceReason) : State :=
  if (s.device p).restartCount < s.settings.restartLimit then
    ((s.modifyDevice p fun d => { d with restartCount := d.restartCount + 1 }).changePort p .restarting reason).askReset p
  else s.hold p .restartLimit .restartLimit

/-- The restart step when the restart window falls due (R114): no notice while the device stays RESTARTING. -/
def State.restartAgain (s : State) (p : Port) : State :=
  if (s.device p).restartCount < s.settings.restartLimit then
    (s.modifyDevice p fun d => { d with restartCount := d.restartCount + 1 }).askReset p
  else s.hold p .restartLimit .restartLimit

/-- A fault of a device in a joined state, in the order of R113. -/
def State.deviceFault (s : State) (p : Port) (f : LastFault) : State :=
  let wasEngaged := s.engaged p
  let s1 := (s.modifyDevice p fun d => { d.emptyQueue with lastFault := some f, missRun := 0 }).removeDeadline
    (.device p) .device
  let s2 := s1.restartOnFault p f.reason
  if wasEngaged then s2.sessionLoss p else s2

/-! ### Joining (R108 to R110, R115) -/

/-- A device enters JOINING: its IDENTIFY is owed and due at once, and it leaves the awaiting-probe set (R108, R165). -/
def State.enterJoining (s : State) (p : Port) (d : DeviceStatus) : State :=
  let wasAbsent := (s.device p).state == .absent
  let s1 := (s.modifyDevice p fun x => { x with missRun := 0, status := some d }).changePort p .joining .probed
  let s2 := (s1.setOwed p (some .identify)).dueNow p
  let s3 := if wasAbsent then s2.offerWake (stationOf p) .deviceJoin else s2
  s3.leaveAwaiting p

/-- A probe answered in RESTARTING: the restart window is removed and the device joins (R115). -/
def State.restartAnswered (s : State) (p : Port) (d : DeviceStatus) : State :=
  (s.removeDeadline (.device p) .device).enterJoining p d

/-- The identity as stored: a reader's states concealed entry as no (R109). -/
def Identity.stored (i : Identity) : Identity :=
  if i.kind = DeviceKind.reader.code then { i with concealed := false } else i

/-- An IDENTIFY answered (R109). -/
def State.identified (s : State) (p : Port) (d : DeviceStatus) (i : Identity) : State :=
  let s1 := s.modifyDevice p fun x => { x with status := some d, identity := some i.stored }
  if i.kind = (kindOf p).code then (s1.setOwed p (some .configure)).dueNow p
  else s1.hold p .wrongKind .wrongKind

/-- The text a keypad shows once it has joined (R110). -/
def State.joinText (s : State) (p : Port) : Text :=
  if s.counter = .orphaned then s.closedText else s.idleText (stationOf p)

/-- The power command that mends a doze state that disagrees with the counter (R110). -/
def State.mendPower (s : State) (p : Port) (dozed : Bool) : State :=
  if dozed ∧ s.counter ≠ .lull then s.queueCommand p ⟨.wake, .ports⟩
  else if dozed = false ∧ s.counter = .lull then s.queueCommand p ⟨.doze, .ports⟩
  else s

/-- A CONFIGURE answered: joining is complete (R110). -/
def State.configured (s : State) (p : Port) (d : DeviceStatus) (dozed : Bool) : State :=
  let s1 := s.modifyDevice p fun x => { x with status := some d, batchToggle := false, commandToggle := false }
  let s2 := s1.changePort p (if dozed then .dozing else .ready) .joined
  let s3 := (s2.modifyDevice p fun x => { x with missRun := 0 }).placeDeadline (.device p) .device Config.cleanPeriod
  let s4 := if kindOf p = .keypad then s3.queueCommand p ⟨.showText (s3.joinText p), .ports⟩ else s3
  s4.mendPower p dozed

/-! ### Misses (R111) -/

/-- A JOINING device falls back to ABSENT (R111). -/
def State.joinMissed (s : State) (p : Port) : State :=
  (s.modifyDevice p fun d => { d with identity := none, status := none }).changePort p .absent .joinMiss

/-- A miss of a joined device: the third in a row is a fault (R111). -/
def State.joinedMiss (s : State) (p : Port) : State :=
  if (s.device p).missRun + 1 < Config.missLimit then s.modifyDevice p fun d => { d with missRun := d.missRun + 1 }
  else s.deviceFault p .misses

/-- A miss, by the device's state (R111; nothing in HELD and UNPOWERED, R137). -/
def State.missTaken (s : State) (p : Port) : State :=
  match (s.device p).state with
  | .joining => s.joinMissed p
  | .ready | .engaged | .dozing => s.joinedMiss p
  | .absent | .restarting | .held | .unpowered => s

/-! ### Power (R119) -/

/-- A device whose station's supply leaves ON (R119). -/
def State.portPowerLost (s : State) (p : Port) : State :=
  if (s.device p).state = .unpowered then s
  else
    let wasEngaged := s.engaged p
    let s1 := (s.modifyDevice p fun d =>
      { d.emptyQueue with missRun := 0, identity := none, status := none, heldReason := none }).removeDeadline
        (.device p) .device
    let s2 := s1.changePort p .unpowered .powerLost
    if wasEngaged then s2.sessionLoss p else s2

/-- The station's supply has left ON: both devices, reader first (R119). -/
def State.powerLost (s : State) (st : Station) : State := (s.portPowerLost (readerOf st)).portPowerLost (keypadOf st)

/-- A device whose station's supply returns to ON (R119, R143). -/
def State.portPowerRestored (s : State) (p : Port) : State :=
  if (s.device p).state = .unpowered then (s.changePort p .absent .powerRestored).dueNow p else s

/-- The station's supply has returned to ON: both devices, reader first (R119). -/
def State.powerRestored (s : State) (st : Station) : State :=
  (s.portPowerRestored (readerOf st)).portPowerRestored (keypadOf st)

/-! ### Engagement (R120) -/

/-- Turns a needed device from READY to ENGAGED (R120). -/
def State.engage (s : State) (p : Port) : State := s.changePort p .engaged .engaged

/-! ### Events (R112, R127) -/

/-- Whether an event is of a kind the device's kind reports (R112). -/
def Event.reportedBy : Event → DeviceKind → Bool
  | .key _, .keypad | .count _, .keypad | .sealedBlock .., .keypad => true
  | .cardIn, .reader | .track .., .reader | .trackError _, .reader | .cardOut, .reader => true
  | .fault _, _ => true
  | .key _, .reader | .count _, .reader | .sealedBlock .., .reader => false
  | .cardIn, .keypad | .track .., .keypad | .trackError _, .keypad | .cardOut, .keypad => false
  | .unknown, _ => false

/-- Places or updates the station's STATION-CALL (R54). -/
def State.noteCall (s : State) (st : Station) : State :=
  s.note (.stationCall st)
    (fun i => match i with
      | .stationCall x n => .stationCall x (bump n)
      | other => other)
    (.stationCall st 1)

/-- An event for the station's session; none is a protocol violation handed back (R127). -/
def State.sessionEvent (s : State) (st : Station) (e : Event) : Option State :=
  match e with
  | .key k => s.sessionKey st k
  | .count n => s.sessionCount st n
  | .sealedBlock n b => s.sessionSealed st n b
  | .cardIn | .track .. | .trackError _ | .cardOut | .fault _ | .unknown => some (s.sessionReader st e)

/-- An event from a device that is READY or DOZING (R53, R56, R127). -/
def State.freeEvent (s : State) (st : Station) (e : Event) : State :=
  match e with
  | .key .call =>
    if s.counter = .opened ∨ s.counter = .orphaned then s.noteCall st else s.offerWake st .callKey
  | .key _ => s.offerWake st .key
  | .cardIn => s.offerWake st .card
  | .count _ | .sealedBlock .. | .track .. | .trackError _ | .cardOut | .fault _ | .unknown => s

/-- A TRACK-ERROR's kind becomes the reader's last fault (R127). -/
def State.recordTrackError (s : State) (p : Port) (e : Event) : State :=
  match e with
  | .trackError k => s.modifyDevice p fun d => { d with lastFault := some (.track k) }
  | _ => s

/-- One event of a new batch goes to its consumer (R127); once a fault has taken the device out of its joined states
the rest are discarded (R113). -/
def State.takeEvent (s : State) (p : Port) (e : Event) : State :=
  if !(s.device p).state.joined then s
  else if !e.reportedBy (kindOf p) then s.deviceFault p .protocol
  else match e with
    | .fault code => s.deviceFault p (.device code)
    | _ =>
      let s1 := s.recordTrackError p e
      if s1.engaged p then (s1.sessionEvent (stationOf p) e).getD (s1.deviceFault p .protocol)
      else s1.freeEvent (stationOf p) e

/-! ### The command in carriage (R121, R124, R140, R141) -/

/-- A READY device taking DOZE enters DOZING; a DOZING device taking WAKE enters READY (R121). -/
def State.powerTaken (s : State) (p : Port) (c : DeviceCommand) : State :=
  match c, (s.device p).state with
  | .doze, .ready => s.changePort p .dozing .dozed
  | .wake, .dozing => s.changePort p .ready .woken
  | _, _ => s

/-- The requester of a command is told that it was taken (R124). -/
def State.tellRequester (s : State) (p : Port) (q : Queued) : State :=
  match q.requester with
  | .session st serial purpose => s.sessionTold st serial purpose p q.command.cls
  | .counter | .ports => s

/-- The queue after its head was taken: the follower, if any, at the head (R124; log 14); the command toggle turned
(R140). -/
def Device.headTaken (d : Device) (rest : List Queued) : Device :=
  { d with queue := d.follower.toList ++ rest, follower := none, inCarriage := false, commandToggle := !d.commandToggle }

/-- An answer confirms the command in carriage (R124, R140). -/
def State.commandTaken (s : State) (p : Port) : State :=
  match (s.device p).queue with
  | [] => s
  | q :: rest => ((s.modifyDevice p fun d => d.headTaken rest).powerTaken p q.command).tellRequester p q

/-- What a POLL answer's command-taken flag means to a POLL that carried a command (R126, R140, R141). -/
def State.judgeTaken (s : State) (p : Port) (carried taken : Bool) : State :=
  if (s.device p).state.joined ∧ carried ∧ (s.device p).inCarriage then
    if taken then s.commandTaken p else s.deviceFault p .protocol
  else s

/-- Whether a status disagrees with the port state with no power command standing (R112). -/
def Device.dozeDisagrees (d : Device) (x : DeviceStatus) : Bool :=
  !d.powerStands && match d.state with
    | .ready | .engaged => !x.awake
    | .dozing => x.awake
    | .unpowered | .absent | .joining | .restarting | .held => false

/-- The doze-state check of R112. -/
def State.dozeCheck (s : State) (p : Port) (x : DeviceStatus) : State :=
  if (s.device p).dozeDisagrees x then s.deviceFault p .protocol else s

/-- The checks on the status of a device still joined (R126 step 4). -/
def State.statusChecks (s : State) (p : Port) (x : DeviceStatus) : State :=
  if (s.device p).state.joined then (s.statusToSession p x).dozeCheck p x else s

/-! ### Taking an answer (R126, R137, R138, R139, R146) -/

/-- A good answer's status, with the miss run at 0 (R107, R111). -/
def State.recordStatus (s : State) (p : Port) (x : DeviceStatus) : State :=
  s.modifyDevice p fun d => { d with status := some x, missRun := 0 }

/-- The events of a POLL answer: a new batch turns the batch toggle and its events are taken in order; a repeat's are
discarded (R138). -/
def State.takeBatch (s : State) (p : Port) (batch : Bool) (events : List Event) : State :=
  if batch = (s.device p).batchToggle then s
  else events.foldl (fun s e => s.takeEvent p e) (s.modifyDevice p fun d => { d with batchToggle := batch })

/-- The events an answer lists. -/
def Contents.eventList : Contents → List Event
  | .events l => l
  | .identity _ | .diag _ => []

/-- A good POLL answer of a joined device, in the four steps of R126, and its more-events flag (R139). -/
def State.takePoll (s : State) (p : Port) (carried : Bool) (a : Answer) : State :=
  let s1 := ((s.recordStatus p a.status).takeBatch p a.batch a.contents.eventList).judgeTaken p carried a.taken
  let s2 := s1.statusChecks p a.status
  if a.more && (s2.device p).state.joined then s2.dueNow p else s2

/-- A good answer taken against the device's state as it stands (R126, R130, R137, R146; log 15 for the pairs that no
rule names). -/
def State.answerTaken (s : State) (f : Flight) (a : Answer) : State :=
  let p := f.port
  match (s.device p).state with
  | .held | .unpowered => s
  | .absent => s.enterJoining p a.status
  | .restarting => s.restartAnswered p a.status
  | .joining =>
    match f.request, s.owes p, a.contents with
    | .identify, _, .identity i => s.identified p a.status i
    | .configure, some .configure, _ => s.configured p a.status f.doze
    | _, _, _ => s.modifyDevice p fun d => { d with status := some a.status }
  | .ready | .engaged | .dozing =>
    if f.request = .poll then s.takePoll p f.carried.isSome a
    else (s.recordStatus p a.status).dozeCheck p a.status

/-- The end of a PROBE exchange is reported to the counter controller (R137, R165). -/
def State.reportProbe (s : State) (f : Flight) : State := if f.request = .probe then s.leaveAwaiting f.port else s

/-- The payload of a DIAG answer. -/
def Contents.diagPayload : Contents → List Byte
  | .diag l => l
  | .events _ | .identity _ => []

/-- The kind byte of DIRECT-EXCHANGE (section 11.3). -/
def directKind : Byte := 0x0B

/-- The reply of a direct exchange that ends: DONE with the answer's payload, or NO-ANSWER (R146). -/
def State.directReply (s : State) (f : Flight) (a : Option Answer) : State :=
  match f.direct, a with
  | some q, some x =>
    s.reply q directKind .done false (byteOf x.contents.diagPayload.length :: x.contents.diagPayload)
  | some q, none => s.reply q directKind .noAnswer false []
  | none, _ => s

/-- The end of an exchange that expects an answer: the reply of a direct exchange first (R146), the outcome taken by the
port manager (R137), the probe reported, and the device's next due tick (R142). -/
def State.endExchange (s : State) (f : Flight) (a : Option Answer) : State :=
  let s1 := { s with flight := none }.directReply f a
  let s2 := match a with
    | some x => s1.answerTaken f x
    | none => s1.missTaken f.port
  (s2.reportProbe f).dueAfterExchange f.port

end Sys2Proof.Machine
end

