-- ==== Sys2Proof/Machine/SupplyMonitor.lean ====
section
/-! DEFINITION. The supply monitor (chapter 08): trials, trips, switching off, sampling and the clean period. -/

namespace Sys2Proof.Machine

/-- The current of a code, in mA (R149). -/
def milliamps (c : SenseCode) : Nat := 2 * c.toNat

/-- Places or updates the SUPPLY-CHANGE of a station from its record as it stands (R159). -/
def State.noteSupply (s : State) (st : Station) (before : SupplyState) (reason : SupplyReason) : State :=
  let r := s.supply st
  let current := r.lastSample.map milliamps
  s.note (.supplyChange st)
    (fun i => match i with
      | .supplyChange x old _ _ _ _ n => .supplyChange x old r.state reason r.tripCount current (bump n)
      | other => other)
    (.supplyChange st before r.state reason r.tripCount current 1)

/-- A device in ABSENT takes the earlier of its due tick and 250 ms when its station's draw becomes present (R143). -/
def State.hastenProbe (s : State) (p : Port) : State :=
  if (s.device p).state = .absent then s.dueWithin p (PortState.interval true .absent) else s

/-- Sets draw present; when it becomes present the bus scheduler hastens the probes of the ABSENT devices (R143, R149). -/
def State.setDraw (s : State) (st : Station) (draw : Bool) : State :=
  let before := (s.supply st).draw
  let s1 := s.modifySupply st fun r => { r with draw := draw }
  if draw && !before then (s1.hastenProbe (readerOf st)).hastenProbe (keypadOf st) else s1

/-- A supply enters TRIAL (R153). -/
def State.enterTrial (s : State) (st : Station) (reason : SupplyReason) : State :=
  let before := (s.supply st).state
  let s1 := (s.modifySupply st fun r => { r with state := .trial, overRun := 0 }).setDraw st false
  (s1.placeDeadline (.supply st) .supply Config.trialTime).noteSupply st before reason

/-- The record of a tripped supply: the count one higher, LOCKED at the third trip, COOLING otherwise (R151, R152). -/
def Supply.tripped (r : Supply) : Supply :=
  { r with
    tripCount := r.tripCount + 1, overRun := 0, state := if r.tripCount + 1 = Config.tripLimit then .locked else .cooling }

/-- A supply trips, in the order of R152. -/
def State.trip (s : State) (st : Station) : State :=
  let before := (s.supply st).state
  let s1 := ((s.removeDeadline (.supply st) .supply).setDraw st false).modifySupply st Supply.tripped
  let locked := (s1.supply st).state == .locked
  let s2 := if locked then s1 else s1.placeDeadline (.supply st) .supply Config.coolTime
  let s3 := s2.noteSupply st before .tripped
  let s4 := if before = .on then s3.powerLost st else s3
  if locked then s4.leaveAwaitingStation st else s4

/-- A supply in TRIAL, ON or COOLING enters OFF (R156 case 5, R158). -/
def State.switchOff (s : State) (st : Station) (held : Bool) (reason : SupplyReason) : State :=
  let before := (s.supply st).state
  let s1 := ((s.removeDeadline (.supply st) .supply).setDraw st false).modifySupply st fun r =>
    { r with state := .off, overRun := 0, heldOff := held }
  let s2 := s1.noteSupply st before reason
  let s3 := if before = .on then s2.powerLost st else s2
  s3.leaveAwaitingStation st

/-- Whether SUPPLY-OFF and CLOSE-COUNTER switch a supply off (R156, R158). -/
def SupplyState.switchable : SupplyState → Bool
  | .trial | .on | .cooling => true
  | .off | .locked => false

/-- Whether a supply is sampled (R149). -/
def SupplyState.sampled : SupplyState → Bool
  | .trial | .on => true
  | .off | .cooling | .locked => false

/-- Starts every supply that is OFF and not held off, in station order (R158). -/
def State.startSupplies (s : State) (reason : SupplyReason) : State :=
  s.forStations fun st s =>
    if (s.supply st).state = .off ∧ (s.supply st).heldOff = false then s.enterTrial st reason else s

/-- Closes every supply in TRIAL, ON or COOLING, in station order (R158). -/
def State.closeSupplies (s : State) : State :=
  s.forStations fun st s => if (s.supply st).state.switchable then s.switchOff st false .counterClosed else s

/-- Judges a sample against the high threshold and the over run (R151). -/
def State.judgeSample (s : State) (st : Station) (c : SenseCode) : State :=
  let r := s.supply st
  if milliamps c ≤ s.settings.highThreshold then s.modifySupply st fun r => { r with overRun := 0 }
  else if r.overRun + 1 < Config.overLimit then s.modifySupply st fun r => { r with overRun := r.overRun + 1 }
  else s.trip st

/-- One sample of a station, in the order of R149. -/
def State.takeSample (s : State) (st : Station) (c : SenseCode) : State :=
  let s1 := s.modifySupply st fun r => { r with lastSample := some c }
  let s2 := s1.setDraw st (s.settings.lowThreshold ≤ milliamps c)
  s2.judgeSample st c

/-- The supply enters ON as its trial deadline falls due (R153). -/
def State.trialOver (s : State) (st : Station) : State :=
  let s1 := s.modifySupply st fun r => { r with state := .on }
  ((s1.placeDeadline (.supply st) .supply Config.cleanPeriod).noteSupply st .trial .trialPassed).powerRestored st

/-- The clean period of a supply has run (R155). -/
def State.supplyClean (s : State) (st : Station) : State :=
  if (s.supply st).tripCount = 0 then s
  else (s.modifySupply st fun r => { r with tripCount := 0 }).noteSupply st .on .clean

end Sys2Proof.Machine
end

