-- ==== Sys2Proof/Machine/Passage.lean ====
section
/-! DEFINITION. The passing of time: the advance of the tick counter with its sampling slots (R91, R149), and the
instants that a row carries the clock to (R96, log 1). -/

namespace Sys2Proof.Machine

/-! ### Slots and advances (R91, R149) -/

/-- Whether an advance to a count owes a sample: the count modulo 10 is the number less one of a station whose supply is
TRIAL or ON (R149). -/
def State.owesSample (s : State) (t : Tick) : Bool :=
  stations.any fun st => t.toNat % 10 == st.val && (s.supply st).state.sampled

/-- What an advance of the tick counter makes of a device's due tick: the device becomes due as the counter reaches it,
by the test of R95, and then stays due (R142; log 25). -/
def Due.passTo (now t : Tick) : Due → Due
  | .now n => .now (n + distance now t)
  | .next d => if isDue t d then .now (distance d t) else .next d

/-- The tick counter advances to a count (R91). The sample of that count is decided here, at the advance: a supply that
enters TRIAL later at the same tick is first sampled at its next slot (R149, section 8.9; DEDUCED, log 26). The devices
whose due ticks are reached become due (R142). -/
def State.advanceTo (s : State) (t : Tick) : State :=
  { s with
    tick := t, slotServed := !s.owesSample t, nextDue := s.nextDue.map fun d => d.map (Due.passTo s.tick t) }

/-- How many ticks ahead the next sampling slot of a station lies: the count modulo 10 is its number less one (R149).
The present tick is no slot when it owes no sample. -/
def slotAhead (now : Tick) (served : Bool) (st : Station) : Option Nat :=
  ([0, 1, 2, 3, 4, 5, 6, 7, 8, 9, 10, 11, 12, 13, 14, 15, 16] : List Nat).find? fun d =>
    (ahead now d).toNat % 10 = st.val && !(served && d = 0)

/-! ### Slots that a row passes (R149, log 1) -/

/-- Whether a sampled station has a slot between the present and a count ahead, the count itself excepted. -/
def State.passesSlot (s : State) (t : Tick) (st : Station) : Bool :=
  (s.supply st).state.sampled && (slotAhead s.tick s.slotServed st).any fun d => decide (d < distance s.tick t)

/-- Whether a sample of the level that stands at a station's sense input would touch nothing but its supply record: it
is not over, and draw present stays as it is (R149, R151). -/
def State.quiet (s : State) (st : Station) : Bool :=
  let c := s.sense[st.val]
  decide (milliamps c ≤ s.settings.highThreshold)
    && decide (s.settings.lowThreshold ≤ milliamps c) == (s.supply st).draw

/-- The record after such a sample, and after any further one of the same level (R149, R151). -/
def Supply.sampledQuietly (r : Supply) (c : SenseCode) : Supply := { r with lastSample := some c, overRun := 0 }

/-- Takes the samples of the slots that lie between the present and a count ahead, each station's of the level that
stands at its sense input (R149). -/
def State.passSlots (s : State) (t : Tick) : State :=
  { s with
    supplies := Vector.ofFn fun st : Station =>
      if s.passesSlot t st then (s.supply st).sampledQuietly s.sense[st.val] else s.supply st }

/-! ### Instants (R96, log 1) -/

/-- Whether an entry of the deadline list falls due before a count ahead. -/
def State.entryBefore (s : State) (t : Tick) : Bool :=
  match s.deadlines with
  | [] => false
  | e :: _ => isDue s.tick e.deadline || decide (distance s.tick e.deadline < distance s.tick t)

/-- Carries the clock to an instant; one already reached leaves it. Absent when something that has a row of its own comes
before the instant: an entry that falls due (R96), or a sample that trips, counts towards a trip or changes draw present
(R149). Every other sample on the way is taken in passing (log 1). -/
def State.reach (s : State) (t : Tick) : Option State :=
  if isDue s.tick t then some s
  else if s.entryBefore t || stations.any (fun st => s.passesSlot t st && !s.quiet st) then none
  else some ((s.passSlots t).advanceTo t)

/-- An entry falls due (R96): it stands at the head of the list, the clock is carried to its deadline, and it is
removed. Absent when the owner holds no such entry at the head: the list's order decides which expiry comes first. -/
def State.fallDue (s : State) (o : Owner) (k : DeadlineKind) : Option State :=
  match s.deadlines with
  | [] => none
  | e :: rest => if e.isFor o k then (s.reach e.deadline).map fun u => { u with deadlines := rest } else none

end Sys2Proof.Machine
end

