-- ==== Sys2Proof/Machine/Link.lean ====
section
/-! DEFINITION. The link interface (chapter 10): the receiver, the intake with its flow frames, the command unit's taking
of a frame, and the transmitter. -/

namespace Sys2Proof.Machine

/-! ### Intake and flow frames (R184, R185) -/

/-- The flow rule at an append: a count of 6 makes HOLD pending (R185). -/
def State.flowOnAppend (s : State) : State :=
  if s.intake.length = Config.holdCount then { s with pendingFlow := some .hold, holding := true } else s

/-- The flow rule at a taking: a count of 2 while holding makes GO pending (R185). -/
def State.flowOnTake (s : State) : State :=
  if s.intake.length = Config.goCount ∧ s.holding then { s with pendingFlow := some .go, holding := false } else s

/-- What a good frame does to the counter before it is handled (R184 step 1, R166, R168). -/
def State.goodFrameToCounter (s : State) : State :=
  match s.counter with
  | .starting | .opened | .waking => s.placeSupervision
  | .orphaned => s.reopen
  | .lull | .closed => s

/-- A good frame appended to the intake, or dropped when eight stand there (R184 steps 2 and 3). -/
def State.appendFrame (s : State) (f : Frame) : State :=
  if s.intake.length < Config.intakeCapacity then { s with intake := s.intake ++ [f] }.flowOnAppend else s

/-- A good frame (R184). -/
def State.goodFrame (s : State) (f : Frame) : State := s.goodFrameToCounter.appendFrame f

/-! ### The receiver (R183) -/

/-- The baud of a rate (R181). -/
def Rate.baud : Rate → Nat
  | .baud115200 => 115200
  | .baud230400 => 230400
  | .baud460800 => 460800
  | .baud921600 => 921600

/-- The rate of the strap levels (R181). -/
def strapRate (x : Straps) : Rate :=
  match x.first, x.second with
  | false, false => .baud115200
  | false, true => .baud230400
  | true, false => .baud460800
  | true, true => .baud921600

/-- Whether a frame's n-th byte, its start byte counted, has arrived within the 20 ms: n byte times of ten bits, and the
ticks that have passed since the start byte's row, which are the gaps between its bytes (R181, R183; log 8). -/
def Rate.fits (r : Rate) (n gap : Nat) : Bool := n * 10000 + gap * r.baud ≤ Config.frameLimit * r.baud

/-- How many ticks after its start byte's row the 20 ms of a frame with n bytes so far have passed (R183; log 8). -/
def Rate.limitTicks (r : Rate) (n : Nat) : Nat := (Config.frameLimit * r.baud - n * 10000 + (r.baud - 1)) / r.baud

/-- What the bytes after the start byte amount to (R182, R183). -/
inductive Assembly where
  | more
  | bad
  | good (frame : Frame)
  deriving DecidableEq, Repr

/-- Judges the bytes after the start byte (R183). -/
def assemble (l : List Byte) : Assembly :=
  match l with
  | lo :: hi :: rest =>
    let n := num16 lo hi
    if n < 2 ∨ Config.maxPayload + 2 < n then .bad
    else if rest.length < n + 2 then .more
    else if rest.drop n = crcBytes (lo :: hi :: rest.take n) then
      match rest.take n with
      | kind :: sequence :: payload => .good ⟨kind, sequence, payload⟩
      | _ => .bad
    else .bad
  | _ => .more

/-- A byte while hunting: a start byte begins a frame; every other byte and every framing error is skipped (R183). -/
def State.huntByte (s : State) (b : LineByte) : State :=
  if b.framed ∧ b.data = 0xA5 then { s with receiver := .assembling [] s.tick } else s

/-- A byte inside a frame, arriving in time (R183). -/
def State.frameByte (s : State) (bytes : List Byte) (start : Tick) (b : LineByte) : State :=
  let l := bytes ++ [b.data]
  if !b.framed then { s with receiver := .hunting }
  else match assemble l with
    | .more => { s with receiver := .assembling l start }
    | .bad => { s with receiver := .hunting }
    | .good f => { s with receiver := .hunting }.goodFrame f

/-- One byte at the receiver (R183). A frame whose 20 ms have passed was discarded before the byte arrived, and the byte
is hunted on: a start byte begins a new frame. -/
def State.receiveByte (s : State) (b : LineByte) : State :=
  match s.receiver with
  | .hunting => s.huntByte b
  | .assembling bytes start =>
    if s.rate.fits (bytes.length + 2) (s.tick - start).toNat then s.frameByte bytes start b
    else { s with receiver := .hunting }.huntByte b

/-- The instant at which the 20 ms of a frame begun at a tick have passed, with the bytes it has so far (R183). -/
def State.frameEnd (s : State) (bytes : List Byte) (start : Tick) : Tick :=
  ahead start (s.rate.limitTicks (bytes.length + 1))

/-! ### The transmitter (R190) -/

/-- At a frame boundary with CTS on, begins the pending flow frame, or else the head of the outbound queue (R190). -/
def State.beginNext (s : State) : State :=
  if s.sending.isNone && s.cts then
    match s.pendingFlow, s.outbound with
    | some f, _ => { s with pendingFlow := none, sending := some ⟨.flow f, (Outgoing.flow f).bytes⟩ }
    | none, i :: rest => { s with outbound := rest, sending := some ⟨.item i, (Outgoing.item i).bytes⟩ }
    | none, [] => s
  else s

/-- A SETTLE entry that the event itself placed already due falls due as soon as the event has been taken whole: the
counter passes through WAKING without another event between (R96, R171). -/
def State.passZeroSettle (s before : State) : State :=
  if before.counter ≠ .waking ∧ s.counter = .waking ∧ (s.deadlineOf .counter .settle).any (isDue s.tick) then
    s.removeSettle.settleComplete
  else s

/-- An event taken whole (R96, R190): what it made due at once falls due, and the transmitter begins what it may (log 5,
log 6). -/
def State.whole (s before : State) : State := (s.passZeroSettle before).beginNext

/-! ### The command unit (R186, R187) -/

/-- Replies standing in the outbound queue (R186). -/
def State.repliesStanding (s : State) : Nat := s.outbound.countP Item.isReply

/-- Whether a direct exchange is pending or in flight (R145). -/
def State.directBusy (s : State) : Bool := s.pendingDirect.isSome || s.flight.any fun f => f.direct.isSome

/-- Whether the command unit takes a frame, the intake apart (R186). -/
def State.canTake (s : State) : Bool :=
  s.repliesStanding < Config.replyLimit && !s.directBusy && s.resetPending.isNone

/-- The oldest frame leaves the intake, and the flow rule is applied (R186). -/
def State.takeHead (s : State) : State := { s with intake := s.intake.tail }.flowOnTake

/-- Takes a frame at the head of the intake when the unit may, and hands it to its owner (R186, R187). -/
def State.takeIfReady (s : State) (owner : State → State) : State := if s.canTake then owner s.takeHead else s

/-- A command row (log 2): the frame it names is taken when it is the oldest of the intake. Otherwise the frame is one
that arrives now as a good frame, and it is taken at once when nothing stands before it (section 10.10). -/
def State.runCommand (s : State) (f : Frame) (owner : State → State) : State :=
  if s.intake.head? = some f then s.takeIfReady owner
  else
    let s1 := s.goodFrame f
    if s1.intake = [f] then s1.takeIfReady owner else s1

/-- The reply of a command (R187). -/
def State.answer (s : State) (f : Frame) (o : ReplyOutcome) (adjusted : Bool) (data : List Byte) : State :=
  s.reply f.sequence f.kind o adjusted data

/-- The reply of a refused command with no data (R187, R188). -/
def State.refuse (s : State) (f : Frame) (o : ReplyOutcome) : State := s.answer f o false []

/-- Hands a command to its owner with its fields, or answers BAD-REQUEST for a malformed payload (R187). -/
def State.withFields {α : Type} (s : State) (f : Frame) (fields : Option α) (owner : α → State) : State :=
  match fields with
  | none => s.refuse f .badRequest
  | some a => owner a

end Sys2Proof.Machine
end

