-- ==== Sys2Proof/Machine/Resets.lean ====
section
/-! DEFINITION. Resets: the entry to STARTING (R164), a soft or full reset taking effect (R178), and the power-on reset
(R179). -/

namespace Sys2Proof.Machine

/-- Which addresses are awaited: those whose station supply is neither OFF nor LOCKED (R164 step 4). -/
def State.awaitedNow (s : State) : Vector Bool 16 :=
  Vector.ofFn fun p => (s.supply (stationOf p)).state != .off && (s.supply (stationOf p)).state != .locked

/-- The entry to STARTING, in the order of R164. -/
def State.enterStartingCounter (s : State) (before : CounterState) (reason : CounterReason) : State :=
  let s1 :=
    { s with
      counter := .starting, wakeMask := Vector.replicate 8 ⟨false, false, false, false⟩, wakeCause := none,
      textOwed := Vector.replicate 8 none, resetPending := none }
  let s2 := (s1.noteCounter before .starting reason).startSupplies .started
  let s3 := { s2 with awaiting := s2.awaitedNow }
  ((s3.placeDeadline .counter .supervision Config.firstSupervision).placeDeadline .counter .settle
    Config.startCap).openIfProbed

/-- A device at a soft or full reset (R107, R130). -/
def Device.reset (d : Device) : Device :=
  if d.state = .unpowered then { Device.blank with restartCount := d.restartCount }
  else { Device.blank with state := PortState.absent }

/-- The devices and the bus scheduler at a soft or full reset (R130, R147): every device that enters ABSENT becomes due
at once, nothing is owed, and an exchange in flight runs on. -/
def State.resetDevices (s : State) : State :=
  { s with devices := s.devices.map Device.reset, owed := Vector.replicate 16 none }.forPorts fun p s =>
    if (s.device p).state = PortState.absent then s.dueNow p else s.setDue p none

/-- Every restart count above a limit is brought down to it (R116, R176). -/
def State.capRestarts (s : State) (limit : Nat) : State :=
  { s with devices := s.devices.map fun d => { d with restartCount := min d.restartCount limit } }

/-- The retained store at its power-on values (R176, R90). -/
def State.resetStore (s : State) : State :=
  { s with
    settings := Settings.powerOn, idleTexts := Vector.replicate 8 [], closedText := powerOnClosedText, policy := [],
    defaultPolicy := Policy.powerOn, businessMonth := none }

/-- Whether an entry stays in the list through a soft or full reset: the SUPPLY entries alone (R98). -/
def Entry.survivesReset (e : Entry) : Bool := e.kind == .supply

/-- A soft or full reset takes effect, in the order of R178. -/
def State.resetEffect (s : State) (k : ResetKind) : State :=
  let s1 := { s with sessions := Vector.replicate 8 Session.blank }
  let s2 := { s1 with intake := [], outbound := [], pendingFlow := none, holding := false }
  let s3 := { s2 with deadlines := s2.deadlines.filter Entry.survivesReset }
  let s4 := s3.resetDevices
  match k with
  | .soft => s4.enterStartingCounter s.counter .softReset
  | .full => (s4.resetStore.capRestarts Settings.powerOn.restartLimit).enterStartingCounter s.counter .fullReset

/-- A power-on reset (R179): every block at its power-on values and STARTING entered, the rate read from the straps
(R181). The levels of the input pins and the model's queue are not the part's, and stay (log 4); what was in flight or in
transmission is gone (log 19). -/
def State.powerOn (s : State) (x : Straps) : State :=
  { State.reset with rate := strapRate x, cts := s.cts, sense := s.sense, pending := s.pending }

end Sys2Proof.Machine
end

