-- ==== Sys2Proof/Machine/LinkEvents.lean ====
section
/-! DEFINITION. The events of the link and the resets: RECEIVE_FRAME, FRAME_TIMEOUT, CTS_CHANGE, FRAME_SENT,
POWER_ON_RESET, RESET_INPUT. -/

namespace Sys2Proof.Machine

/-- An event that is no command, taken whole. -/
def eventRow (effect : State → State) (s : State) : Host.Outcome State Fault Refusal := .next ((effect s).whole s)

/-! ### The receiver (R183) -/

/-- The bytes of a row at the receiver, in order (R183). -/
def State.receiveBytes (s : State) (l : List LineByte) : State := l.foldl State.receiveByte s

/-- RECEIVE_FRAME (R183, R184). -/
def execReceiveFrame (bytes : List LineByte) (s : State) : Host.Outcome State Fault Refusal :=
  eventRow (fun s => s.receiveBytes bytes) s

/-- 20 ms after the start byte a frame not complete is discarded (R183). -/
def State.timeOutFrame (s : State) : State :=
  match s.receiver with
  | .hunting => s
  | .assembling bytes start =>
    match s.reach (s.frameEnd bytes start) with
    | some s' => { s' with receiver := .hunting }
    | none => s

/-- FRAME_TIMEOUT (R183). -/
def execFrameTimeout (s : State) : Host.Outcome State Fault Refusal := eventRow State.timeOutFrame s

/-! ### The transmitter (R190) -/

/-- CTS_CHANGE (R190). -/
def execCtsChange (on : Bool) (s : State) : Host.Outcome State Fault Refusal :=
  eventRow (fun s => { s with cts := on }) s

/-- The kind byte of a RESET-HUB reply (section 11.2). -/
def resetReplyKind : Byte := 0x94

/-- The transmitter's report to the block concerned (R190): the DONE reply of RESET-HUB lets the pending reset take
effect (R178); a STEP-RESULT and a SESSION-END go to the session engine. -/
def State.reportSent (s : State) : Outgoing → State
  | .flow _ => s
  | .item (.reply _ k .done _ _) =>
    match s.resetPending with
    | some r => if k = resetReplyKind then s.resetEffect r else s
    | none => s
  | .item (.stepResult r) => (s.resultLeft r.station).stationLineFree r.station
  | .item (.sessionEnd st _ _) => s.stationLineFree st
  | .item _ => s

/-- The last byte of the frame in transmission leaves the line (R190). -/
def State.frameLeft (s : State) : State :=
  match s.sending with
  | none => s
  | some x => { s with sending := none }.reportSent x.what

/-- FRAME_SENT (R190). -/
def execFrameSent (s : State) : Host.Outcome State Fault Refusal := eventRow State.frameLeft s

/-! ### Resets (R179) -/

/-- POWER_ON_RESET (R179). -/
def execPowerOnReset (straps : Straps) (s : State) : Host.Outcome State Fault Refusal :=
  eventRow (fun s => s.powerOn straps) s

/-- RESET_INPUT: it acts as a power-on reset (R179). -/
def execResetInput (straps : Straps) (s : State) : Host.Outcome State Fault Refusal :=
  eventRow (fun s => s.powerOn straps) s

end Sys2Proof.Machine
end

