-- ==== Sys2Proof/Machine/BusEvents.lean ====
section
/-! DEFINITION. The bus scheduler: the choice of the next exchange (R132, R133, R144, R146), and the ends of exchanges
(R136, R137). -/

namespace Sys2Proof.Machine

/-! ### The choice (R144) -/

/-- The device of a list that became due first; the earlier in the list of two that became due at the same tick. -/
def longestWaiting (waited : Port → Option Nat) : List Port → Option Port
  | [] => none
  | p :: rest =>
    match waited p, longestWaiting waited rest with
    | none, r => r
    | some _, none => some p
    | some a, some q => if (waited q).getD 0 ≤ a then some p else some q

/-- The due device whose turn it is: an ENGAGED one before any other (R144 classes 2 and 3). -/
def State.chooseDue (s : State) : Option Port :=
  match longestWaiting s.waited (ports.filter fun p => (s.device p).state == .engaged) with
  | some p => some p
  | none => longestWaiting s.waited (ports.filter fun p => (s.device p).state.addressed)

/-- The request a port state calls for (R132). -/
def State.requestFor (s : State) (p : Port) : Option Request :=
  match (s.device p).state with
  | .absent => some .probe
  | .joining => if s.owes p = some .configure then some .configure else some .identify
  | .restarting => if s.owes p = some .resetDevice then some .resetDevice else some .probe
  | .ready | .engaged | .dozing => some .poll
  | .held | .unpowered => none

/-- The command a request carries: the head of the queue, in a POLL (R133). -/
def Device.carriedBy (d : Device) (r : Request) : Option DeviceCommand :=
  if r = .poll then d.queue.head?.map (·.command) else none

/-- The payload of a request that is not a DIAG (R133). -/
def requestPayload (r : Request) (carried : Option DeviceCommand) (doze : Bool) : List Byte :=
  match r with
  | .configure => [yesNo doze]
  | .poll => (carried.map DeviceCommand.bytes).getD []
  | .probe | .identify | .resetDevice | .diag => []

/-- The exchange of a request with a device begins: the head of the queue is in carriage, and a RESET-DEVICE asked for
is no longer owed (R124, R132, R133). -/
def State.beginExchange (s : State) (p : Port) (r : Request) : State :=
  let d := s.device p
  let carried := d.carriedBy r
  let doze := r == .configure && s.counter == .lull
  let s1 := s.setDue p none
  let s2 := if carried.isSome then s1.setDevice p { d with inCarriage := true } else s1
  let s3 := if r = .resetDevice then s2.setOwed p none else s2
  { s3 with
    flight := some ⟨p, r, carried.map fun c => (c, d.commandToggle), doze, none,
      requestFrame p r d.batchToggle d.commandToggle (requestPayload r carried doze)⟩ }

/-- The direct exchange begins: a DIAG with its payload (R132, R146). -/
def State.beginDirect (s : State) (x : Direct) : State :=
  let d := s.device x.port
  { s.setDue x.port none with
    pendingDirect := none
    flight := some ⟨x.port, .diag, none, false, some x.sequence,
      requestFrame x.port .diag d.batchToggle d.commandToggle x.payload⟩ }

/-- The next exchange among the due devices begins, or the bus stays free (R144). -/
def State.carryDue (s : State) : State :=
  match s.chooseDue with
  | none => s
  | some p =>
    match s.requestFor p with
    | some r => s.beginExchange p r
    | none => s

/-- A pending direct exchange withdrawn: its reply is UNAVAILABLE, and the command unit stops waiting (R146). -/
def State.withdrawDirect (s : State) (x : Direct) : State :=
  { s with pendingDirect := none }.reply x.sequence directKind .unavailable false []

/-- Whether a device of a state can be addressed by a direct exchange (R146). -/
def PortState.takesDirect : PortState → Bool
  | .joining | .ready | .dozing | .restarting | .engaged => true
  | .held | .unpowered | .absent => false

/-- The pending direct exchange at its turn (R146); when it is withdrawn the arbiter chooses on (log 18). -/
def State.carryDirect (s : State) (x : Direct) : State :=
  if (s.device x.port).state.takesDirect then s.beginDirect x else (s.withdrawDirect x).carryDue

/-- The due tick that lies nearest ahead. -/
def nearestDue (now : Tick) : List (Option Due) → Option Tick
  | [] => none
  | t :: rest =>
    match t, nearestDue now rest with
    | some (.next a), some b => if distance now a ≤ distance now b then some a else some b
    | some (.next a), none => some a
    | some (.now _), r | none, r => r

/-- Whether any device is due. -/
def State.anyDue (s : State) : Bool := ports.any fun p => (s.waited p).isSome

/-- The arbiter with the bus free (R144): at once when a direct exchange is pending or a device is due, and otherwise
when the next device falls due (log 1). -/
def State.arbitrate (s : State) : State :=
  if s.flight.isSome then s
  else match s.pendingDirect with
    | some x => s.carryDirect x
    | none =>
      if s.anyDue then s.carryDue
      else match (nearestDue s.tick (ports.map s.due)).bind s.reach with
        | some s' => s'.carryDue
        | none => s

/-- BUS_ARBITRATE (R144). -/
def execBusArbitrate (s : State) : Host.Outcome State Fault Refusal := eventRow State.arbitrate s

/-! ### Ends of exchanges -/

/-- The end of a RESET-DEVICE request, which expects no answer (R131, R134, R142). -/
def State.resetSent (s : State) : State :=
  match s.flight with
  | some f => if f.request = .resetDevice then { s with flight := none }.dueAfterExchange f.port else s
  | none => s

/-- RESET_DEVICE_SENT (R114, R131). -/
def execResetDeviceSent (s : State) : Host.Outcome State Fault Refusal := eventRow State.resetSent s

/-- The answer window closes on a miss (R136, R137). -/
def State.missed (s : State) : State :=
  match s.flight with
  | some f => if f.request = .resetDevice then s else s.endExchange f none
  | none => s

/-- EXCHANGE_MISS (R111, R136). -/
def execExchangeMiss (s : State) : Host.Outcome State Fault Refusal := eventRow State.missed s

/-- An answer frame received in the window of the exchange of a request; one that is not good is a miss (R136, R193). -/
def State.answered (s : State) (r : Request) (frame : List Byte) : State :=
  match s.flight with
  | some f => if f.request = r then s.endExchange f (answerOf f.port r frame) else s
  | none => s

/-- PROBE_ANSWER (R108, R115). -/
def execProbeAnswer (frame : List Byte) (s : State) : Host.Outcome State Fault Refusal :=
  eventRow (fun s => s.answered .probe frame) s

/-- IDENTIFY_ANSWER (R109). -/
def execIdentifyAnswer (frame : List Byte) (s : State) : Host.Outcome State Fault Refusal :=
  eventRow (fun s => s.answered .identify frame) s

/-- CONFIGURE_ANSWER (R110). -/
def execConfigureAnswer (frame : List Byte) (s : State) : Host.Outcome State Fault Refusal :=
  eventRow (fun s => s.answered .configure frame) s

/-- POLL_ANSWER (R126). -/
def execPollAnswer (frame : List Byte) (s : State) : Host.Outcome State Fault Refusal :=
  eventRow (fun s => s.answered .poll frame) s

/-- DIAG_ANSWER (R146). -/
def execDiagAnswer (frame : List Byte) (s : State) : Host.Outcome State Fault Refusal :=
  eventRow (fun s => s.answered .diag frame) s

end Sys2Proof.Machine
end

