-- ==== Sys2Proof/Machine/DeadlineEvents.lean ====
section
/-! DEFINITION. The deadlines that fall due (R96, R97) and the samples of the supplies (R149). -/

namespace Sys2Proof.Machine

/-- The expiry of an owner's entry, told to an owner whose state times it. Nothing happens when the entry does not
stand at the head of the list or the owner's state is another (log 3). -/
def State.expire (s : State) (o : Owner) (k : DeadlineKind) (timed : Bool) (effect : State → State) : State :=
  if timed then
    match s.fallDue o k with
    | some s' => effect s'
    | none => s
  else s

/-! ### Sessions (R41, R97, R102) -/

/-- Whether a session's deadlines can fall due: RUNNING in WAITING-CLEAR or ACTIVE (R97). -/
def Session.timed (r : Session) : Bool :=
  r.state == .running && (r.phase == some .waitingClear || r.phase == some .active)

/-- The STEP deadline has fallen due (R97, R18). -/
def State.stepExpired (s : State) (st : Station) : State :=
  match (s.session st).step? with
  | some ⟨_, .showText _⟩ => s.deliver st .showOk
  | _ => s.enterEnding st .timedOut

/-- STEP_DEADLINE (R97). -/
def execStepDeadline (station : Station) (s : State) : Host.Outcome State Fault Refusal :=
  eventRow (fun s => s.expire (.session station) .step (s.session station).timed fun s => s.stepExpired station) s

/-- The step warns, in the order of R102. -/
def State.warnStep (s : State) (st : Station) : State :=
  ((s.modifySession st fun r => { r with warned := true }).noteProgress st).beep st .warn

/-- WARN_DEADLINE (R102). -/
def execWarnDeadline (station : Station) (s : State) : Host.Outcome State Fault Refusal :=
  eventRow (fun s => s.expire (.session station) .warn (s.session station).timed fun s => s.warnStep station) s

/-- KEY_DEADLINE (R41). -/
def execKeyDeadline (station : Station) (s : State) : Host.Outcome State Fault Refusal :=
  eventRow
    (fun s => s.expire (.session station) .key (s.session station).timed fun s => s.enterEnding station .timedOut) s

/-! ### Devices (R114, R116) -/

/-- RESTART_WINDOW (R114). -/
def execRestartWindow (port : Port) (s : State) : Host.Outcome State Fault Refusal :=
  eventRow
    (fun s => s.expire (.device port) .device ((s.device port).state == .restarting) fun s => s.restartAgain port) s

/-- The clean period of a device has run (R116). -/
def State.deviceClean (s : State) (p : Port) : State := s.modifyDevice p fun d => { d with restartCount := 0 }

/-- DEVICE_CLEAN_PERIOD (R116). -/
def execDeviceCleanPeriod (port : Port) (s : State) : Host.Outcome State Fault Refusal :=
  eventRow (fun s => s.expire (.device port) .device (s.device port).state.joined fun s => s.deviceClean port) s

/-! ### Supplies (R149, R153 to R155) -/

/-- TRIAL_PASSED (R153). -/
def execTrialPassed (station : Station) (s : State) : Host.Outcome State Fault Refusal :=
  eventRow
    (fun s => s.expire (.supply station) .supply ((s.supply station).state == .trial) fun s => s.trialOver station) s

/-- COOLED (R154). -/
def execCooled (station : Station) (s : State) : Host.Outcome State Fault Refusal :=
  eventRow
    (fun s => s.expire (.supply station) .supply ((s.supply station).state == .cooling)
      fun s => s.enterTrial station .cooled) s

/-- SUPPLY_CLEAN_PERIOD (R155). -/
def execSupplyCleanPeriod (station : Station) (s : State) : Host.Outcome State Fault Refusal :=
  eventRow
    (fun s => s.expire (.supply station) .supply ((s.supply station).state == .on) fun s => s.supplyClean station) s

/-- The next sampling slot of a station is reached and used, and its sense input reads a code (R149); absent while
something else comes first. -/
def State.reachSlot (s : State) (st : Station) (c : SenseCode) : Option State :=
  match slotAhead s.tick s.slotServed st with
  | none => none
  | some d => (s.reach (ahead s.tick d)).map fun s' => { s' with slotServed := true, sense := s'.sense.set st.val c }

/-- One sample of a station in TRIAL or ON, at its next slot (R149). -/
def State.sampleAtSlot (s : State) (st : Station) (c : SenseCode) : State :=
  if (s.supply st).state.sampled then
    match s.reachSlot st c with
    | some s' => s'.takeSample st c
    | none => s
  else s

/-- SUPPLY_SAMPLE (R149). -/
def execSupplySample (station : Station) (code : SenseCode) (s : State) : Host.Outcome State Fault Refusal :=
  eventRow (fun s => s.sampleAtSlot station code) s

/-! ### The counter (R165, R167, R171) -/

/-- Whether the counter's state is one in which supervision runs (R166). -/
def CounterState.supervised : CounterState → Bool
  | .starting | .opened | .waking => true
  | .lull | .closed | .orphaned => false

/-- SUPERVISION_EXPIRED (R167). -/
def execSupervisionExpired (s : State) : Host.Outcome State Fault Refusal :=
  eventRow (fun s => s.expire .counter .supervision s.counter.supervised State.enterOrphaned) s

/-- SETTLED (R171). -/
def execSettled (s : State) : Host.Outcome State Fault Refusal :=
  eventRow (fun s => s.expire .counter .settle (s.counter == .waking) State.settleComplete) s

/-- START_CAP (R165). -/
def execStartCap (s : State) : Host.Outcome State Fault Refusal :=
  eventRow (fun s => s.expire .counter .settle (s.counter == .starting) fun s => s.openFromStarting .startCap) s

end Sys2Proof.Machine
end

