-- ==== Sys2Proof/Machine/Clock.lean ====
section
/-! DEFINITION. What the part does by itself while no command waits in the model's queue (log 1, log 16): a row of its
own engines that is ready at the present tick, or else the tick counter advances by one (R91). -/

namespace Sys2Proof.Machine

/-- The row that takes a frame of the intake (R187). -/
def Frame.row (f : Frame) : Instr :=
  match f.kind.toNat with
  | 0x01 => .openSession f.sequence f.payload
  | 0x02 => .cancelSession f.sequence f.payload
  | 0x03 => .extendStep f.sequence f.payload
  | 0x04 => .policyLoad f.sequence f.payload
  | 0x05 => .policyDrop f.sequence f.payload
  | 0x06 => .policyList f.sequence f.payload
  | 0x07 => .defaultPolicy f.sequence f.payload
  | 0x08 => .setDate f.sequence f.payload
  | 0x09 => .deviceInfo f.sequence f.payload
  | 0x0A => .deviceRelease f.sequence f.payload
  | 0x0B => .directExchange f.sequence f.payload
  | 0x0C => .supplyOff f.sequence f.payload
  | 0x0D => .supplyRestore f.sequence f.payload
  | 0x0E => .dozeCounter f.sequence f.payload
  | 0x0F => .openCounter f.sequence f.payload
  | 0x10 => .closeCounter f.sequence f.payload
  | 0x11 => .settings f.sequence f.payload
  | 0x12 => .idleText f.sequence f.payload
  | 0x13 => .status f.sequence f.payload
  | 0x14 => .resetHub f.sequence f.payload
  | _ => .unknownCommandKind f.kind f.sequence f.payload

/-- The oldest frame's row, when the command unit may take it (R186). -/
def State.commandReady (s : State) : Option Instr :=
  match s.intake with
  | f :: _ => if s.canTake then some f.row else none
  | [] => none

/-- The row that tells an entry's owner that it has fallen due; the owner's state gives the meaning (R96). -/
def State.expiryRow (s : State) (e : Entry) : Instr :=
  match e.owner, e.kind with
  | .session st, .warn => .warnDeadline st
  | .session st, .key => .keyDeadline st
  | .session st, _ => .stepDeadline st
  | .device p, _ => if (s.device p).state = .restarting then .restartWindow p else .deviceCleanPeriod p
  | .supply st, _ =>
    match (s.supply st).state with
    | .trial => .trialPassed st
    | .cooling => .cooled st
    | .on | .off | .locked => .supplyCleanPeriod st
  | .counter, .supervision => .supervisionExpired
  | .counter, _ => if s.counter = .waking then .settled else .startCap

/-- The head entry's row once it is due (R96). -/
def State.expiryReady (s : State) : Option Instr :=
  match s.deadlines with
  | e :: _ => if isDue s.tick e.deadline then some (s.expiryRow e) else none
  | [] => none

/-- The sample of the present tick's slot, when it has not been taken (R149). -/
def State.sampleReady (s : State) : Option Instr :=
  if s.slotServed then none
  else (stations.find? fun st => s.tick.toNat % 10 == st.val && (s.supply st).state.sampled).map fun st =>
    .supplySample st s.sense[st.val]

/-- The arbiter's row, with the bus free and something to carry (R144). -/
def State.arbiterReady (s : State) : Option Instr :=
  if s.flight.isNone && (s.pendingDirect.isSome || s.anyDue) then some .busArbitrate else none

/-- The receiver's row 20 ms after a start byte (R183). -/
def State.timeoutReady (s : State) : Option Instr :=
  match s.receiver with
  | .assembling bytes start => if isDue s.tick (s.frameEnd bytes start) then some .frameTimeout else none
  | .hunting => none

/-- The row the part takes by itself at the present tick, in the order of log 16. -/
def State.nextInternal (s : State) : Option Instr :=
  s.commandReady <|> s.expiryReady <|> s.sampleReady <|> s.arbiterReady <|> s.timeoutReady

/-- The tick counter advances by one (R91). -/
def State.tickOnce (s : State) : State := s.advanceTo (s.tick + 1)

end Sys2Proof.Machine
end

