-- ==== Sys2Proof/Machine/SessionCommands.lean ====
section
/-! DEFINITION. The commands on a session: OPEN-SESSION (R3 to R6), CANCEL-SESSION (R23), EXTEND-STEP (R103 to R105). -/

namespace Sys2Proof.Machine

/-- A command row, taken whole (log 2). -/
def commandRow (f : Frame) (owner : State → State) (s : State) : Host.Outcome State Fault Refusal :=
  .next ((s.runCommand f owner).whole s)

/-! ### OPEN-SESSION -/

/-- A normalised step that R5 allows; cardBefore says whether a CARD step stands before it. -/
def StepRecord.allowed (cardBefore : Bool) (r : StepRecord) : Bool :=
  match r.kind with
  | .card .. | .confirm _ => true
  | .entry .plain lo hi bounds .. => lo ≤ hi && !bounds
  | .entry .concealed lo hi bounds .. => lo ≤ hi && (!bounds || cardBefore)
  | .showText _ => !r.prompt.isEmpty

/-- Every step of a list allowed (R5). -/
def stepsAllowed : Bool → List StepRecord → Bool
  | _, [] => true
  | cardBefore, r :: rest => r.allowed cardBefore && stepsAllowed (cardBefore || r.kind.isCard) rest

/-- Whether a session of these steps needs the reader (R5). -/
def needsReader (l : List StepRecord) : Bool := l.any fun r => r.kind.isCard

/-- Whether a session of these steps needs the keypad (R5). -/
def needsKeypad (l : List StepRecord) : Bool := l.any fun r => r.kind.needsKeypad

/-- Whether a session of these steps needs a keypad that states concealed entry (R5). -/
def needsConcealed (l : List StepRecord) : Bool := l.any fun r => r.kind.isConcealed

/-- Whether the devices a session needs can serve it (R5 check 4). -/
def State.canServe (s : State) (st : Station) (l : List StepRecord) : Bool :=
  (!needsReader l || (s.device (readerOf st)).state == .ready)
    && (!needsKeypad l || (s.device (keypadOf st)).state == .ready)
    && (!needsConcealed l || (s.device (keypadOf st)).identity.any (·.concealed))

/-- The checks of R5 for a station 1..8, on the normalised steps: the outcome that refuses, or none. -/
def State.openRefusal (s : State) (st : Station) (tag : Nat) (l : List StepRecord) : Option ReplyOutcome :=
  if tag = 0 ∨ l.length = 0 ∨ 4 < l.length ∨ stepsAllowed false l = false then some .badRequest
  else if s.counter ≠ .opened then some .wrongState
  else if (s.session st).state ≠ .idle then some .busy
  else if s.canServe st l then none
  else some .unavailable

/-- The record of a session just taken (R6). -/
def Session.taken (r : Session) (tag : Nat) (mode : ProgressMode) (l : List StepRecord) : Session :=
  { Session.blank with
    state := .running, tag := some tag, mode := some mode, steps := l, index := some 1, lastTag := r.lastTag,
    lastCause := r.lastCause, serial := r.serial + 1 }

/-- The devices a session needs, engaged reader first (R6, R120). -/
def State.engageNeeded (s : State) (st : Station) (l : List StepRecord) : State :=
  let s1 := if needsReader l then s.engage (readerOf st) else s
  if needsKeypad l then s1.engage (keypadOf st) else s1

/-- OPEN-SESSION taken (R6): the record, the reply, the devices engaged, and step 1's entry to STARTING. -/
def State.takeSession (s : State) (f : Frame) (st : Station) (tag : Nat) (mode : ProgressMode)
    (l : Adjusted (List StepRecord)) : State :=
  let s1 := (s.modifySession st fun r => r.taken tag mode l.value).answer f .done l.adjusted []
  (s1.engageNeeded st l.value).enterStarting st 1

/-- OPEN-SESSION at its owner (R4, R5, R6). -/
def State.openSession (s : State) (f : Frame) (q : OpenRequest) : State :=
  let l := normaliseSteps s.settings.defaultStepTime q.steps
  match stationOfByte q.station with
  | none => s.refuse f .badRequest
  | some st =>
    match s.openRefusal st q.tag l.value with
    | some o => s.refuse f o
    | none => s.takeSession f st q.tag q.mode l

/-- OPEN_SESSION (R3 to R6). -/
def execOpenSession (sequence : Byte) (payload : List Byte) (s : State) : Host.Outcome State Fault Refusal :=
  let f : Frame := ⟨0x01, sequence, payload⟩
  commandRow f (fun s => s.withFields f (openRequestOf payload) (s.openSession f)) s

/-! ### CANCEL-SESSION -/

/-- The rows of R23's table. -/
inductive CancelChoice where
  | ending | deferred | tooLate | notFound
  deriving DecidableEq, Repr

/-- Which row of R23's table a session with a tag falls under. -/
def Session.cancelChoice (r : Session) (tag : Nat) : CancelChoice :=
  match r.state with
  | .running =>
    if r.tag ≠ some tag then .notFound
    else if r.phase ≠ some .delivering then .ending
    else if r.deferredCause.isSome || r.lastStep || r.cardRefused then .tooLate
    else .deferred
  | .ending => if r.tag = some tag then .tooLate else .notFound
  | .idle => if r.lastTag = some tag then .tooLate else .notFound

/-- CANCEL-SESSION at its owner, for a station 1..8 (R23). -/
def State.cancelAt (s : State) (f : Frame) (st : Station) (tag : Nat) : State :=
  match (s.session st).cancelChoice tag with
  | .ending => (s.answer f .done false []).enterEnding st .cancelledWorkstation
  | .deferred =>
    (s.answer f .done false []).modifySession st fun r => { r with deferredCause := some .cancelledWorkstation }
  | .tooLate => s.refuse f .tooLate
  | .notFound => s.refuse f .notFound

/-- CANCEL-SESSION at its owner (R23). -/
def State.cancelSession (s : State) (f : Frame) (q : Byte × Nat) : State :=
  match stationOfByte q.1 with
  | none => s.refuse f .badRequest
  | some st => if q.2 = 0 then s.refuse f .badRequest else s.cancelAt f st q.2

/-- CANCEL_SESSION (R23). -/
def execCancelSession (sequence : Byte) (payload : List Byte) (s : State) : Host.Outcome State Fault Refusal :=
  let f : Frame := ⟨0x02, sequence, payload⟩
  commandRow f (fun s => s.withFields f (cancelRequestOf payload) (s.cancelSession f)) s

/-! ### EXTEND-STEP -/

/-- The checks of R103 for a station 1..8 and a tag above 0: the outcome that refuses, or none. -/
def Session.extendRefusal (r : Session) (tag : Nat) : Option ReplyOutcome :=
  if r.state ≠ .running ∨ r.tag ≠ some tag then some .notFound
  else match r.phase, r.step? with
    | some .waitingClear, some x | some .active, some x => if x.kind.isShow then some .wrongState else none
    | _, _ => some .wrongState

/-- What becomes of the warning when the STEP deadline has moved by a number of ticks (R105). -/
def State.moveWarning (s : State) (st : Station) (ticks : Nat) (stepDeadline : Tick) : State :=
  let lead := s.settings.warnLead
  match s.deadlineOf (.session st) .warn with
  | some w => s.placeDeadlineAt (.session st) .warn (ahead w ticks)
  | none =>
    if (s.session st).warned = false ∧ lead ≠ 0 ∧ lead * Config.ticksPerTenth < distance s.tick stepDeadline then
      s.placeDeadlineAt (.session st) .warn (stepDeadline - BitVec.ofNat 32 (lead * Config.ticksPerTenth))
    else s

/-- The STEP deadline moved later by a granted amount, with the warning (R104, R105). A grant of 0 moves nothing. -/
def State.extendDeadlines (s : State) (st : Station) (granted : Nat) : State :=
  match s.deadlineOf (.session st) .step with
  | none => s
  | some d =>
    if granted = 0 then s
    else
      let moved := ahead d (granted * Config.ticksPerTenth)
      (s.placeDeadlineAt (.session st) .step moved).moveWarning st (granted * Config.ticksPerTenth) moved

/-- The amount granted: the smaller of t and what is left of the step's budget (R104). -/
def Session.grant (r : Session) (t : Nat) : Nat := min t (Config.extensionBudget - r.extension)

/-- The remaining tenths to the STEP deadline (R99, R104). -/
def State.stepRemaining (s : State) (st : Station) : Nat :=
  ((s.deadlineOf (.session st) .step).map (remainingTenths s.tick)).getD 0

/-- A granted EXTEND-STEP (R104). -/
def State.extendGranted (s : State) (f : Frame) (st : Station) (amount : Nat) : State :=
  let t := clamp 1 600 amount
  let granted := (s.session st).grant t.value
  let s1 := (s.extendDeadlines st granted).modifySession st fun r => { r with extension := r.extension + granted }
  s1.answer f .done (t.adjusted || granted < t.value) (le16 granted ++ le16 (s1.stepRemaining st))

/-- EXTEND-STEP at its owner (R103, R104). -/
def State.extendStep (s : State) (f : Frame) (q : Byte × Nat × Nat) : State :=
  match stationOfByte q.1 with
  | none => s.refuse f .badRequest
  | some st =>
    if q.2.1 = 0 then s.refuse f .badRequest
    else match (s.session st).extendRefusal q.2.1 with
      | some o => s.refuse f o
      | none => s.extendGranted f st q.2.2

/-- EXTEND_STEP (R103 to R105). -/
def execExtendStep (sequence : Byte) (payload : List Byte) (s : State) : Host.Outcome State Fault Refusal :=
  let f : Frame := ⟨0x03, sequence, payload⟩
  commandRow f (fun s => s.withFields f (extendRequestOf payload) (s.extendStep f)) s

end Sys2Proof.Machine
end

