-- ==== Sys2Proof/Machine/CounterCommands.lean ====
section
/-! DEFINITION. The commands on the counter (chapter 09), and the answer to an unknown kind (R187). -/

namespace Sys2Proof.Machine

/-- Whether every session is IDLE (R169, R173). -/
def State.allIdle (s : State) : Bool := stations.all fun st => (s.session st).state == .idle

/-! ### DOZE-COUNTER, OPEN-COUNTER, CLOSE-COUNTER (R169, R172, R173) -/

/-- DOZE-COUNTER taken in OPEN, after its reply (R169 steps 3 to 6). -/
def State.enterLull (s : State) : State :=
  (s.removeSupervision.clearTextOwed.changeCounter .lull .dozed).dozeDevices

/-- DOZE-COUNTER at its owner (R169). -/
def State.dozeCounter (s : State) (f : Frame) (mask : Vector WakeFlags 8) : State :=
  match s.counter with
  | .lull => { s with wakeMask := mask }.answer f .done false []
  | .opened => if s.allIdle then ({ s with wakeMask := mask }.answer f .done false []).enterLull else s.refuse f .busy
  | .starting | .waking | .closed | .orphaned => s.refuse f .wrongState

/-- DOZE_COUNTER (R169). -/
def execDozeCounter (sequence : Byte) (payload : List Byte) (s : State) : Host.Outcome State Fault Refusal :=
  let f : Frame := ⟨0x0E, sequence, payload⟩
  commandRow f (fun s => s.withFields f (wakeMaskOf payload) (s.dozeCounter f)) s

/-- The wake by the workstation (R172). -/
def workstationWake : WakeCause := ⟨.workstation, none⟩

/-- OPEN-COUNTER at its owner (R172). -/
def State.openCounter (s : State) (f : Frame) : State :=
  match s.counter with
  | .starting => s.refuse f .wrongState
  | .opened | .waking => s.answer f .done false []
  | .lull => (s.answer f .done false []).wake workstationWake
  | .closed => ((s.answer f .done false []).enterWaking workstationWake .opened).startSupplies .counterOpened
  | .orphaned => (s.answer f .done false []).reopen

/-- OPEN_COUNTER (R172). -/
def execOpenCounter (sequence : Byte) (payload : List Byte) (s : State) : Host.Outcome State Fault Refusal :=
  let f : Frame := ⟨0x0F, sequence, payload⟩
  commandRow f (fun s => s.withFields f (noBytes payload) (fun _ => s.openCounter f)) s

/-- CLOSE-COUNTER taken, after its reply (R173 steps 2 to 4). -/
def State.enterClosed (s : State) : State :=
  (s.removeSupervision.removeSettle.clearTextOwed.changeCounter .closed .closeCommand).closeSupplies

/-- CLOSE-COUNTER at its owner (R173). -/
def State.closeCounter (s : State) (f : Frame) : State :=
  match s.counter with
  | .starting => s.refuse f .wrongState
  | .closed => s.answer f .done false []
  | .opened | .lull | .waking | .orphaned =>
    if s.allIdle then (s.answer f .done false []).enterClosed else s.refuse f .busy

/-- CLOSE_COUNTER (R173). -/
def execCloseCounter (sequence : Byte) (payload : List Byte) (s : State) : Host.Outcome State Fault Refusal :=
  let f : Frame := ⟨0x10, sequence, payload⟩
  commandRow f (fun s => s.withFields f (noBytes payload) (fun _ => s.closeCounter f)) s

/-! ### SETTINGS (R174) -/

/-- The settings named, absent when a code names none (R174). -/
def namedSettings : List (Byte × Nat) → Option (List (SettingName × Nat))
  | [] => some []
  | (b, v) :: rest =>
    match settingNameOf b, namedSettings rest with
    | some n, some l => some ((n, v) :: l)
    | _, _ => none

/-- Stores every setting given, brought into its range (R174). -/
def Settings.store (x : Settings) : List (SettingName × Nat) → Settings
  | [] => x
  | (n, v) :: rest => (x.put n (settingInRange n v).value).store rest

/-- Whether bringing a value into its range changed it (R174). -/
def anyAdjusted (l : List (SettingName × Nat)) : Bool := l.any fun q => (settingInRange q.1 q.2).adjusted

/-- The settings replaced: every restart count above the limit in force is brought down to it (R174, R116). -/
def State.storeSettings (s : State) (x : Settings) : State := { s with settings := x }.capRestarts x.restartLimit

/-- SETTINGS at its owner (R174). -/
def State.changeSettings (s : State) (f : Frame) (q : List (Byte × Nat)) : State :=
  match namedSettings q with
  | none => s.refuse f .badRequest
  | some l =>
    if (l.map (·.1)).Nodup then
      (s.storeSettings (s.settings.store l)).answer f .done (anyAdjusted l) (s.settings.store l).bytes
    else s.refuse f .badRequest

/-- SETTINGS (R174). -/
def execSettings (sequence : Byte) (payload : List Byte) (s : State) : Host.Outcome State Fault Refusal :=
  let f : Frame := ⟨0x11, sequence, payload⟩
  commandRow f (fun s => s.withFields f (settingsRequestOf payload) (s.changeSettings f)) s

/-! ### IDLE-TEXT (R175) -/

/-- What an IDLE-TEXT names (R175). -/
inductive TextTarget where
  | allStations
  | station (station : Station)
  | closed
  deriving DecidableEq, Repr

/-- The target a byte names: 0 all stations, 1..8 one of them, 0xFF the closed text (section 11.3). -/
def textTargetOf (b : Byte) : Option TextTarget :=
  if b = 0 then some .allStations else if b = 0xFF then some .closed else (stationOfByte b).map .station

/-- Whether the counter's state has idle texts on the displays (R175). -/
def CounterState.showsIdle : CounterState → Bool
  | .starting | .opened | .waking | .lull => true
  | .closed | .orphaned => false

/-- An idle text of one station stored, and queued at once where it is due (R175). -/
def State.putIdleText (s : State) (st : Station) (t : Text) : State :=
  let s1 := { s with idleTexts := s.idleTexts.set st.val t }
  if s.counter.showsIdle then s1.textToFreeKeypad st t else s1

/-- The closed text stored, and queued at once where it is due (R175). -/
def State.putClosedText (s : State) (t : Text) : State :=
  let s1 := { s with closedText := t }
  if s.counter = .orphaned then s1.forStations fun st s => s.textToFreeKeypad st t else s1

/-- A text stored for its target (R175). -/
def State.putText (s : State) (t : Text) : TextTarget → State
  | .allStations => s.forStations fun st s => s.putIdleText st t
  | .station st => s.putIdleText st t
  | .closed => s.putClosedText t

/-- IDLE-TEXT at its owner (R175). -/
def State.changeText (s : State) (f : Frame) (q : Byte × Text) : State :=
  match textTargetOf q.1 with
  | none => s.refuse f .badRequest
  | some x =>
    let t := normaliseText q.2
    (s.answer f .done t.adjusted []).putText t.value x

/-- IDLE_TEXT (R175). -/
def execIdleText (sequence : Byte) (payload : List Byte) (s : State) : Host.Outcome State Fault Refusal :=
  let f : Frame := ⟨0x12, sequence, payload⟩
  commandRow f (fun s => s.withFields f (idleTextRequestOf payload) (s.changeText f)) s

/-! ### STATUS and RESET-HUB (R177, R178) -/

/-- STATUS (R177). -/
def execStatus (sequence : Byte) (payload : List Byte) (s : State) : Host.Outcome State Fault Refusal :=
  let f : Frame := ⟨0x13, sequence, payload⟩
  commandRow f (fun s => s.withFields f (noBytes payload) (fun _ => s.answer f .done false (statusData s))) s

/-- RESET-HUB at its owner: the reset is pending until its DONE reply has left the line (R178). -/
def State.askHubReset (s : State) (f : Frame) (k : ResetKind) : State :=
  { s with resetPending := some k }.answer f .done false []

/-- RESET_HUB (R178). -/
def execResetHub (sequence : Byte) (payload : List Byte) (s : State) : Host.Outcome State Fault Refusal :=
  let f : Frame := ⟨0x14, sequence, payload⟩
  commandRow f (fun s => s.withFields f (resetKindOf payload) (s.askHubReset f)) s

/-! ### An unknown kind (R187) -/

/-- UNKNOWN_COMMAND_KIND (R187): answered BAD-REQUEST. A kind that names a command is not of this row (log 3). -/
def execUnknownCommandKind (kind sequence : Byte) (payload : List Byte) (s : State) :
    Host.Outcome State Fault Refusal :=
  let f : Frame := ⟨kind, sequence, payload⟩
  if 1 ≤ kind.toNat ∧ kind.toNat ≤ 0x14 then .next s else commandRow f (fun s => s.refuse f .badRequest) s

end Sys2Proof.Machine
end

