-- ==== Sys2Proof/Machine/DeviceCommands.lean ====
section
/-! DEFINITION. The commands on devices and supplies: DEVICE-INFO, DEVICE-RELEASE, DIRECT-EXCHANGE, SUPPLY-OFF,
SUPPLY-RESTORE. -/

namespace Sys2Proof.Machine

/-! ### Devices (R118, R129, R145) -/

/-- DEVICE-INFO at its owner (R129). -/
def State.deviceInfo (s : State) (f : Frame) (a : Byte) : State :=
  match portOfByte a with
  | none => s.refuse f .badRequest
  | some p => s.answer f .done false (deviceInfoData s p)

/-- DEVICE_INFO (R129). -/
def execDeviceInfo (sequence : Byte) (payload : List Byte) (s : State) : Host.Outcome State Fault Refusal :=
  let f : Frame := ⟨0x09, sequence, payload⟩
  commandRow f (fun s => s.withFields f (oneByteOf payload) (s.deviceInfo f)) s

/-- A HELD device put back to ABSENT (R118); its last status becomes absent on entry to ABSENT (R107), and it is due at
once (R143). -/
def State.releaseHeld (s : State) (p : Port) : State :=
  ((s.modifyDevice p fun d => { d with restartCount := 0, heldReason := none, identity := none, status := none }).changePort
    p .absent .released).dueNow p

/-- DEVICE-RELEASE at its owner (R118). -/
def State.deviceRelease (s : State) (f : Frame) (a : Byte) : State :=
  match portOfByte a with
  | none => s.refuse f .badRequest
  | some p => if (s.device p).state = .held then (s.answer f .done false []).releaseHeld p else s.refuse f .wrongState

/-- DEVICE_RELEASE (R118). -/
def execDeviceRelease (sequence : Byte) (payload : List Byte) (s : State) : Host.Outcome State Fault Refusal :=
  let f : Frame := ⟨0x0A, sequence, payload⟩
  commandRow f (fun s => s.withFields f (oneByteOf payload) (s.deviceRelease f)) s

/-- What R145 answers by the device's state: the outcome that refuses, or none. -/
def PortState.directRefusal : PortState → Option ReplyOutcome
  | .held | .unpowered | .absent => some .unavailable
  | .engaged => some .busy
  | .joining | .ready | .dozing | .restarting => none

/-- DIRECT-EXCHANGE at its owner (R145). -/
def State.directExchange (s : State) (f : Frame) (q : Byte × List Byte) : State :=
  match portOfByte q.1 with
  | none => s.refuse f .badRequest
  | some p =>
    if 40 < q.2.length then s.refuse f .badRequest
    else match (s.device p).state.directRefusal with
      | some o => s.refuse f o
      | none => { s with pendingDirect := some ⟨p, q.2, f.sequence⟩ }

/-- DIRECT_EXCHANGE (R145). -/
def execDirectExchange (sequence : Byte) (payload : List Byte) (s : State) : Host.Outcome State Fault Refusal :=
  let f : Frame := ⟨0x0B, sequence, payload⟩
  commandRow f (fun s => s.withFields f (directRequestOf payload) (s.directExchange f)) s

/-! ### Supplies (R156, R157) -/

/-- The reply of a supply command: the state and the trip count after it (R156, R157). -/
def State.supplyReply (s : State) (f : Frame) (state : SupplyState) (trips : Nat) : State :=
  s.answer f .done false [state.code, byteOf trips]

/-- SUPPLY-OFF on a station whose session is IDLE (R156 cases 3 to 5). -/
def State.offSupply (s : State) (f : Frame) (st : Station) : State :=
  let r := s.supply st
  match r.state with
  | .locked => s.supplyReply f .locked r.tripCount
  | .off => (s.modifySupply st fun r => { r with heldOff := true }).supplyReply f .off r.tripCount
  | .trial | .on | .cooling => (s.supplyReply f .off r.tripCount).switchOff st true .switchedOff

/-- SUPPLY-OFF at its owner (R156). A refusal for a busy session carries the data too. -/
def State.supplyOff (s : State) (f : Frame) (b : Byte) : State :=
  match stationOfByte b with
  | none => s.refuse f .badRequest
  | some st =>
    if (s.session st).state ≠ .idle then
      s.answer f .busy false [(s.supply st).state.code, byteOf (s.supply st).tripCount]
    else s.offSupply f st

/-- SUPPLY_OFF (R156). -/
def execSupplyOff (sequence : Byte) (payload : List Byte) (s : State) : Host.Outcome State Fault Refusal :=
  let f : Frame := ⟨0x0C, sequence, payload⟩
  commandRow f (fun s => s.withFields f (oneByteOf payload) (s.supplyOff f)) s

/-- A supply restored while the counter is CLOSED stays OFF or enters OFF (R157); a change is noticed. -/
def State.restoreClosed (s : State) (f : Frame) (st : Station) : State :=
  let before := s.supply st
  let s1 := (s.modifySupply st fun r => { r with state := .off, tripCount := 0, heldOff := false }).supplyReply f .off 0
  if before.state = .off ∧ before.tripCount = 0 then s1 else s1.noteSupply st before.state .restored

/-- A supply restored to TRIAL (R157). -/
def State.restoreTrial (s : State) (f : Frame) (st : Station) : State :=
  ((s.modifySupply st fun r => { r with tripCount := 0, heldOff := false }).supplyReply f .trial 0).enterTrial st .restored

/-- SUPPLY-RESTORE at its owner (R157). -/
def State.supplyRestore (s : State) (f : Frame) (b : Byte) : State :=
  match stationOfByte b with
  | none => s.refuse f .badRequest
  | some st =>
    match (s.supply st).state with
    | .off | .locked => if s.counter = .closed then s.restoreClosed f st else s.restoreTrial f st
    | .trial | .on | .cooling => s.supplyReply f (s.supply st).state (s.supply st).tripCount

/-- SUPPLY_RESTORE (R157). -/
def execSupplyRestore (sequence : Byte) (payload : List Byte) (s : State) : Host.Outcome State Fault Refusal :=
  let f : Frame := ⟨0x0D, sequence, payload⟩
  commandRow f (fun s => s.withFields f (oneByteOf payload) (s.supplyRestore f)) s

end Sys2Proof.Machine
end

