-- ==== Sys2Proof/Machine/PolicyCommands.lean ====
section
/-! DEFINITION. The commands on the card policy table (chapter 04). -/

namespace Sys2Proof.Machine

/-! ### The table's order (R81) -/

/-- Whether a prefix comes before another: the smaller digit at the first difference, the shorter of two that agree. -/
def keyBefore : Digits → Digits → Bool
  | [], [] => false
  | [], _ :: _ => true
  | _ :: _, [] => false
  | a :: as, b :: bs => if a < b then true else if b < a then false else keyBefore as bs

/-- Whether the table holds an entry with a prefix. -/
def holdsKey (key : Digits) (table : List PolicyEntry) : Bool := table.any fun x => x.key == key

/-- Replaces in place the entry with the same prefix (R83). -/
def replaceEntry (e : PolicyEntry) (table : List PolicyEntry) : List PolicyEntry :=
  table.map fun x => if x.key = e.key then e else x

/-- Inserts an entry at its place in the order of R81. -/
def insertPolicy (e : PolicyEntry) : List PolicyEntry → List PolicyEntry
  | [] => [e]
  | x :: xs => if keyBefore e.key x.key then e :: x :: xs else x :: insertPolicy e xs

/-- The index of the entry with a prefix (R81). -/
def indexOfKey (key : Digits) (table : List PolicyEntry) : Nat := table.findIdx fun x => x.key == key

/-! ### POLICY-LOAD and DEFAULT-POLICY (R82, R83, R86) -/

/-- Whether a normalised policy's ranges each have their minimum at most their maximum (R82). -/
def Policy.rangesGood (p : Policy) : Bool := p.accountMin ≤ p.accountMax && p.concealedMin ≤ p.concealedMax

/-- A reply of POLICY-LOAD or POLICY-DROP that carries the count alone (R81). -/
def State.countReply (s : State) (f : Frame) (o : ReplyOutcome) : State :=
  s.answer f o false [byteOf s.policy.length]

/-- POLICY-LOAD on a table (R83): the table after it and whether an entry was replaced; absent when the table is full. -/
def loadEntry (e : PolicyEntry) (table : List PolicyEntry) : Option (List PolicyEntry × Bool) :=
  if holdsKey e.key table then some (replaceEntry e table, true)
  else if Config.policyCapacity ≤ table.length then none
  else some (insertPolicy e table, false)

/-- POLICY-LOAD at its owner (R82, R83). -/
def State.policyLoad (s : State) (f : Frame) (q : LoadRequest) : State :=
  let p := normalisePolicy q.policy
  if q.count = 0 ∨ 10 < q.count ∨ p.value.rangesGood = false then s.countReply f .badRequest
  else match loadEntry ⟨q.key, p.value⟩ s.policy with
    | none => s.countReply f .tableFull
    | some (table, replaced) =>
      { s with policy := table }.answer f .done p.adjusted
        [yesNo replaced, byteOf (indexOfKey q.key table), byteOf table.length]

/-- POLICY_LOAD (R83). -/
def execPolicyLoad (sequence : Byte) (payload : List Byte) (s : State) : Host.Outcome State Fault Refusal :=
  let f : Frame := ⟨0x04, sequence, payload⟩
  commandRow f (fun s => s.withFields f (loadRequestOf payload) (s.policyLoad f)) s

/-- DEFAULT-POLICY at its owner (R82, R86). -/
def State.replaceDefault (s : State) (f : Frame) (q : Policy) : State :=
  let p := normalisePolicy q
  if p.value.rangesGood then { s with defaultPolicy := p.value }.answer f .done p.adjusted []
  else s.refuse f .badRequest

/-- DEFAULT_POLICY (R86). -/
def execDefaultPolicy (sequence : Byte) (payload : List Byte) (s : State) : Host.Outcome State Fault Refusal :=
  let f : Frame := ⟨0x07, sequence, payload⟩
  commandRow f (fun s => s.withFields f (defaultRequestOf payload) (s.replaceDefault f)) s

/-! ### POLICY-DROP and POLICY-LIST (R84, R85) -/

/-- POLICY-DROP at its owner (R84). -/
def State.policyDrop (s : State) (f : Frame) (key : Digits) : State :=
  if key.length = 0 ∨ 10 < key.length then s.countReply f .badRequest
  else if holdsKey key s.policy then
    { s with policy := s.policy.filter fun x => !(x.key == key) }.countReply f .done
  else s.countReply f .notFound

/-- POLICY_DROP (R84). -/
def execPolicyDrop (sequence : Byte) (payload : List Byte) (s : State) : Host.Outcome State Fault Refusal :=
  let f : Frame := ⟨0x05, sequence, payload⟩
  commandRow f (fun s => s.withFields f (dropRequestOf payload) (s.policyDrop f)) s

/-- The data of POLICY-LIST from a start index (R85, section 11.3). -/
def listData (table : List PolicyEntry) (default : Policy) (start : Nat) : List Byte :=
  let shown := (table.drop start).take 4
  byteOf table.length :: byteOf shown.length :: shown.flatMap (fun x => policyRecord x.key x.policy)
    ++ policyRecord [] default

/-- POLICY-LIST at its owner (R85). -/
def State.policyList (s : State) (f : Frame) (start : Byte) : State :=
  s.answer f .done false (listData s.policy s.defaultPolicy start.toNat)

/-- POLICY_LIST (R85). -/
def execPolicyList (sequence : Byte) (payload : List Byte) (s : State) : Host.Outcome State Fault Refusal :=
  let f : Frame := ⟨0x06, sequence, payload⟩
  commandRow f (fun s => s.withFields f (oneByteOf payload) (s.policyList f)) s

/-! ### SET-DATE (R88) -/

/-- SET-DATE at its owner (R88). -/
def State.setDate (s : State) (f : Frame) (q : Byte × Byte) : State :=
  if 99 < q.1.toNat ∨ q.2.toNat < 1 ∨ 12 < q.2.toNat then s.refuse f .badRequest
  else { s with businessMonth := some ⟨q.1.toNat, q.2.toNat⟩ }.answer f .done false []

/-- SET_DATE (R88). -/
def execSetDate (sequence : Byte) (payload : List Byte) (s : State) : Host.Outcome State Fault Refusal :=
  let f : Frame := ⟨0x08, sequence, payload⟩
  commandRow f (fun s => s.withFields f (twoBytesOf payload) (s.setDate f)) s

end Sys2Proof.Machine
end

