-- ==== Sys2Proof/Machine/Dispatch.lean ====
section
/-! DEFINITION. The meaning of every command of the block: one direct call for each row. -/

namespace Sys2Proof.Machine

def exec (i : Instr) (s : State) : Host.Outcome State Fault Refusal :=
  match i with
  | .openSession sequence payload => Sys2Proof.Machine.execOpenSession sequence payload s
  | .cancelSession sequence payload => Sys2Proof.Machine.execCancelSession sequence payload s
  | .extendStep sequence payload => Sys2Proof.Machine.execExtendStep sequence payload s
  | .policyLoad sequence payload => Sys2Proof.Machine.execPolicyLoad sequence payload s
  | .policyDrop sequence payload => Sys2Proof.Machine.execPolicyDrop sequence payload s
  | .policyList sequence payload => Sys2Proof.Machine.execPolicyList sequence payload s
  | .defaultPolicy sequence payload => Sys2Proof.Machine.execDefaultPolicy sequence payload s
  | .setDate sequence payload => Sys2Proof.Machine.execSetDate sequence payload s
  | .deviceInfo sequence payload => Sys2Proof.Machine.execDeviceInfo sequence payload s
  | .deviceRelease sequence payload => Sys2Proof.Machine.execDeviceRelease sequence payload s
  | .directExchange sequence payload => Sys2Proof.Machine.execDirectExchange sequence payload s
  | .supplyOff sequence payload => Sys2Proof.Machine.execSupplyOff sequence payload s
  | .supplyRestore sequence payload => Sys2Proof.Machine.execSupplyRestore sequence payload s
  | .dozeCounter sequence payload => Sys2Proof.Machine.execDozeCounter sequence payload s
  | .openCounter sequence payload => Sys2Proof.Machine.execOpenCounter sequence payload s
  | .closeCounter sequence payload => Sys2Proof.Machine.execCloseCounter sequence payload s
  | .settings sequence payload => Sys2Proof.Machine.execSettings sequence payload s
  | .idleText sequence payload => Sys2Proof.Machine.execIdleText sequence payload s
  | .status sequence payload => Sys2Proof.Machine.execStatus sequence payload s
  | .resetHub sequence payload => Sys2Proof.Machine.execResetHub sequence payload s
  | .unknownCommandKind kind sequence payload => Sys2Proof.Machine.execUnknownCommandKind kind sequence payload s
  | .receiveFrame bytes => Sys2Proof.Machine.execReceiveFrame bytes s
  | .frameTimeout => Sys2Proof.Machine.execFrameTimeout s
  | .ctsChange on => Sys2Proof.Machine.execCtsChange on s
  | .frameSent => Sys2Proof.Machine.execFrameSent s
  | .powerOnReset straps => Sys2Proof.Machine.execPowerOnReset straps s
  | .resetInput straps => Sys2Proof.Machine.execResetInput straps s
  | .supplySample station code => Sys2Proof.Machine.execSupplySample station code s
  | .trialPassed station => Sys2Proof.Machine.execTrialPassed station s
  | .cooled station => Sys2Proof.Machine.execCooled station s
  | .supplyCleanPeriod station => Sys2Proof.Machine.execSupplyCleanPeriod station s
  | .stepDeadline station => Sys2Proof.Machine.execStepDeadline station s
  | .warnDeadline station => Sys2Proof.Machine.execWarnDeadline station s
  | .keyDeadline station => Sys2Proof.Machine.execKeyDeadline station s
  | .restartWindow port => Sys2Proof.Machine.execRestartWindow port s
  | .deviceCleanPeriod port => Sys2Proof.Machine.execDeviceCleanPeriod port s
  | .supervisionExpired => Sys2Proof.Machine.execSupervisionExpired s
  | .settled => Sys2Proof.Machine.execSettled s
  | .startCap => Sys2Proof.Machine.execStartCap s
  | .busArbitrate => Sys2Proof.Machine.execBusArbitrate s
  | .resetDeviceSent => Sys2Proof.Machine.execResetDeviceSent s
  | .exchangeMiss => Sys2Proof.Machine.execExchangeMiss s
  | .probeAnswer frame => Sys2Proof.Machine.execProbeAnswer frame s
  | .identifyAnswer frame => Sys2Proof.Machine.execIdentifyAnswer frame s
  | .configureAnswer frame => Sys2Proof.Machine.execConfigureAnswer frame s
  | .pollAnswer frame => Sys2Proof.Machine.execPollAnswer frame s
  | .diagAnswer frame => Sys2Proof.Machine.execDiagAnswer frame s

end Sys2Proof.Machine
end

