-- ==== Sys2Proof/WellFormed.lean ====
section
/-! DEFINITION. Which commands can stand for an event of the line: a payload that a frame can hold, a kind that names
no command, an answer that the window can hold. exec is total all the same. -/

namespace Sys2Proof

/-- Whether a kind byte names one of the twenty commands (section 11.2). -/
def namesCommand (kind : Byte) : Bool := 1 ≤ kind.toNat && kind.toNat ≤ 0x14

/-- A frame's payload holds at most 241 bytes (R182). -/
def payloadFits (payload : List Byte) : Bool := payload.length ≤ Config.maxPayload

/-- An answer ends within 12 ms of the request at 115,200 baud (R131, R136). -/
def answerFits (frame : List Byte) : Bool := frame.length ≤ Config.maxAnswer

/-- The check of a command's operands. -/
def Instr.wellFormed : Instr → Bool
  | .openSession _ p | .cancelSession _ p | .extendStep _ p | .policyLoad _ p | .policyDrop _ p | .policyList _ p
  | .defaultPolicy _ p | .setDate _ p | .deviceInfo _ p | .deviceRelease _ p | .directExchange _ p | .supplyOff _ p
  | .supplyRestore _ p | .dozeCounter _ p | .openCounter _ p | .closeCounter _ p | .settings _ p | .idleText _ p
  | .status _ p | .resetHub _ p => payloadFits p
  | .unknownCommandKind k _ p => !namesCommand k && payloadFits p
  | .probeAnswer f | .identifyAnswer f | .configureAnswer f | .pollAnswer f | .diagAnswer f => answerFits f
  | .receiveFrame _ | .frameTimeout | .ctsChange _ | .frameSent | .powerOnReset _ | .resetInput _
  | .supplySample _ _ | .trialPassed _ | .cooled _ | .supplyCleanPeriod _ | .stepDeadline _ | .warnDeadline _
  | .keyDeadline _ | .restartWindow _ | .deviceCleanPeriod _ | .supervisionExpired | .settled | .startCap
  | .busArbitrate | .resetDeviceSent | .exchangeMiss => true

end Sys2Proof
end

