-- ==== Sys2Proof/Safety.lean ====
section
/-! DEFINITION. The terms in which claims are made: what the part keeps true of its records (the invariants), when a
command is taken, what stands for the workstation, and how a session ends. -/

namespace Sys2Proof.Machine

/-! ### Invariants -/

/-- No two entries of the deadline list have the same owner and kind (R93). -/
abbrev State.oneEntryEach (s : State) : Prop := s.deadlines.Pairwise fun a b => ¬(a.owner = b.owner ∧ a.kind = b.kind)

/-- No two standing notices have the same sort and key (R189). -/
abbrev State.coalescedQueue (s : State) : Prop := s.outbound.Pairwise fun a b => a.key = none ∨ a.key ≠ b.key

/-- The replies still to be placed for a direct exchange that the command unit waits on (R145, R187). -/
def State.repliesAwaited (s : State) : Nat :=
  (if s.pendingDirect.isSome then 1 else 0) + (if s.flight.any (fun f => f.direct.isSome) then 1 else 0)

/-- At most eight replies stand, the one a direct exchange still owes counted with them (R186). -/
abbrev State.repliesWithinEight (s : State) : Prop := s.repliesStanding + s.repliesAwaited ≤ 8

/-- A policy's ranges as R79 gives them. -/
abbrev Policy.inRange (p : Policy) : Prop :=
  12 ≤ p.accountMin ∧ p.accountMin ≤ p.accountMax ∧ p.accountMax ≤ 19
    ∧ 4 ≤ p.concealedMin ∧ p.concealedMin ≤ p.concealedMax ∧ p.concealedMax ≤ 12

/-- An entry's fields as R79 gives them. -/
abbrev PolicyEntry.good (e : PolicyEntry) : Prop :=
  1 ≤ e.key.length ∧ e.key.length ≤ 10 ∧ (∀ d ∈ e.key, d ≤ 9) ∧ e.policy.inRange

/-- A policy table in the order of R81, with at most 32 entries as R79 gives them. -/
abbrev tableGood (l : List PolicyEntry) : Prop :=
  l.Pairwise (fun a b => keyBefore a.key b.key = true) ∧ l.length ≤ 32 ∧ ∀ e ∈ l, e.good

/-- The policy table and the default policy are good (R79 to R81). -/
abbrev State.policyGood (s : State) : Prop := tableGood s.policy ∧ s.defaultPolicy.inRange

/-- Every supply record is LOCKED exactly at a trip count of 3, which is the most it reaches (R152). -/
abbrev State.suppliesGood (s : State) : Prop :=
  ∀ st, ((s.supply st).state = .locked ↔ (s.supply st).tripCount = 3) ∧ (s.supply st).tripCount ≤ 3

/-- The settings lie in their ranges (R174, R150). -/
abbrev Settings.inRange (x : Settings) : Prop :=
  (1 ≤ x.restartLimit ∧ x.restartLimit ≤ 14) ∧ (2 ≤ x.supervision ∧ x.supervision ≤ 60) ∧ x.settleSelect ≤ 7
    ∧ (100 ≤ x.highThreshold ∧ x.highThreshold ≤ 1500 ∧ x.highThreshold % 2 = 0)
    ∧ (10 ≤ x.lowThreshold ∧ x.lowThreshold ≤ 200 ∧ x.lowThreshold % 2 = 0)
    ∧ (10 ≤ x.defaultStepTime ∧ x.defaultStepTime ≤ 600) ∧ x.warnLead ≤ 300

/-- The settings lie in their ranges, and no restart count exceeds the restart limit in force (R174, R116). -/
abbrev State.settingsGood (s : State) : Prop :=
  s.settings.inRange ∧ ∀ p, (s.device p).restartCount ≤ s.settings.restartLimit

/-! ### Commands -/

/-- The command unit takes this frame now: it is the oldest of the intake, and the unit does not stall (R186). -/
abbrev State.takesNow (s : State) (f : Frame) : Prop := s.intake.head? = some f ∧ s.canTake = true

/-- The taking of a frame that does nothing but place one reply: the frame leaves the intake, the reply is placed, and
the transmitter begins what it may (R186, R187, R190). -/
def State.answeredWith (s : State) (i : Item) : State := (s.takeHead.append i).beginNext

/-- An item stands in the outbound queue or is in transmission (R189). -/
abbrev State.shows (s : State) (i : Item) : Prop := i ∈ s.outbound ∨ s.sending.map (·.what) = some (.item i)

/-- A session ends with a cause: it is ENDING with the cause, or it has returned to IDLE with the cause recorded as its
last (R19, R21). -/
abbrev Ends (before after : Session) (cause : EndCause) : Prop :=
  (after.state = .ending ∧ after.endCause = some cause ∧ after.tag = before.tag ∧ after.phase = none)
    ∨ (after.state = .idle ∧ after.lastCause = some cause ∧ after.lastTag = before.tag ∧ after.tag = none)

/-- The retained store is the same (R176). -/
abbrev SameStore (s t : State) : Prop :=
  t.settings = s.settings ∧ t.idleTexts = s.idleTexts ∧ t.closedText = s.closedText ∧ t.policy = s.policy
    ∧ t.defaultPolicy = s.defaultPolicy ∧ t.businessMonth = s.businessMonth

/-- One setting's value (R174). -/
def Settings.get (x : Settings) : SettingName → Nat
  | .restartLimit => x.restartLimit
  | .supervision => x.supervision
  | .settleSelect => x.settleSelect
  | .highThreshold => x.highThreshold
  | .lowThreshold => x.lowThreshold
  | .defaultStepTime => x.defaultStepTime
  | .warnLead => x.warnLead

/-- A text of the counter controller stands for a keypad, in its queue or as its follower (R122, R124). -/
abbrev State.awaitsText (s : State) (p : Port) (x : Text) : Prop :=
  ⟨.showText x, .counter⟩ ∈ (s.device p).queue ∨ (s.device p).follower = some ⟨.showText x, .counter⟩

/-- What the passing of the clock makes of the due ticks (R142): a device that is due stays due, and has been due for
so many ticks more; one whose next due tick is reached becomes due; any other is left as it was. -/
abbrev DuesPass (s t : State) : Prop :=
  let passed := distance s.tick t.tick
  ∀ p, (s.due p = none → t.due p = none)
    ∧ (∀ n, s.due p = some (.now n) → t.due p = some (.now (n + passed)))
    ∧ ∀ d, s.due p = some (.next d) → isDue s.tick d = false →
      t.due p = if distance s.tick d ≤ passed then some (.now (distance d t.tick)) else some (.next d)

/-- A frame's bytes as the receiver finds them, each with a good stop bit (R181). -/
def onLine (l : List Byte) : List LineByte := l.map fun b => ⟨b, true⟩

/-- The present count once the head entry of a deadline has fallen due (R96): the deadline, or the count already there
when it was due. -/
def State.tickAt (s : State) (d : Tick) : Tick := if isDue s.tick d then s.tick else d

end Sys2Proof.Machine

namespace Sys2Proof

open Machine

/-- The frame a command row takes (R187). -/
def Instr.frame : Instr → Option Frame
  | .openSession q l => some ⟨0x01, q, l⟩
  | .cancelSession q l => some ⟨0x02, q, l⟩
  | .extendStep q l => some ⟨0x03, q, l⟩
  | .policyLoad q l => some ⟨0x04, q, l⟩
  | .policyDrop q l => some ⟨0x05, q, l⟩
  | .policyList q l => some ⟨0x06, q, l⟩
  | .defaultPolicy q l => some ⟨0x07, q, l⟩
  | .setDate q l => some ⟨0x08, q, l⟩
  | .deviceInfo q l => some ⟨0x09, q, l⟩
  | .deviceRelease q l => some ⟨0x0A, q, l⟩
  | .directExchange q l => some ⟨0x0B, q, l⟩
  | .supplyOff q l => some ⟨0x0C, q, l⟩
  | .supplyRestore q l => some ⟨0x0D, q, l⟩
  | .dozeCounter q l => some ⟨0x0E, q, l⟩
  | .openCounter q l => some ⟨0x0F, q, l⟩
  | .closeCounter q l => some ⟨0x10, q, l⟩
  | .settings q l => some ⟨0x11, q, l⟩
  | .idleText q l => some ⟨0x12, q, l⟩
  | .status q l => some ⟨0x13, q, l⟩
  | .resetHub q l => some ⟨0x14, q, l⟩
  | .unknownCommandKind k q l => some ⟨k, q, l⟩
  | .receiveFrame _ | .frameTimeout | .ctsChange _ | .frameSent | .powerOnReset _ | .resetInput _
  | .supplySample _ _ | .trialPassed _ | .cooled _ | .supplyCleanPeriod _ | .stepDeadline _ | .warnDeadline _
  | .keyDeadline _ | .restartWindow _ | .deviceCleanPeriod _ | .supervisionExpired | .settled | .startCap
  | .busArbitrate | .resetDeviceSent | .exchangeMiss | .probeAnswer _ | .identifyAnswer _ | .configureAnswer _
  | .pollAnswer _ | .diagAnswer _ => none

end Sys2Proof
end

