-- ==== Sys2Proof/Certificates/Slice0/Obligations.lean ====
section
/-! DEFINITION. The statements for the provers. A frame that an event frees the transmitter to send begins at the end
of the event (`beginNext`, log 5). Where a deadline, a sampling slot or the 20 ms of a frame falls due, the clock is
carried to that instant by the model's choice (`tickAt`, `reach`, log 1). `s.reach d = some u` says that nothing with
a row of its own comes before the instant d, and u is s at that instant, the samples of the slots on the way taken and
the devices due whose due ticks were reached (SampleIsJudged). -/

open Sys2Proof Sys2Proof.Machine

/-! ### The step and the commands as a whole -/

/-- One step with a command at the front of the queue is that command on the state with the queue's rest. With an
empty queue a step takes the row that an engine of the part has ready, and otherwise the clock advances by one tick
(the model's choice, logs 1 and 16), which settles whether the new count owes a sample (log 26) and which devices are
due there (R142). -/
def Obligations.StepRunsTheFrontCommand : Prop :=
  (∀ (s : State) (i : Instr) (rest : List Instr), s.pending = i :: rest → step s = exec i { s with pending := rest })
  ∧ ∀ s : State, s.pending = [] →
    (∀ i, s.nextInternal = some i → step s = exec i s)
      ∧ (s.nextInternal = none → ∃ t, step s = .next t
        ∧ t = { s with tick := s.tick + 1, slotServed := t.slotServed, nextDue := t.nextDue }
        ∧ DuesPass s t
        ∧ (t.slotServed = false ↔ ∃ st : Station, (s.tick + 1).toNat % 10 = st.val
            ∧ ((s.supply st).state = .trial ∨ (s.supply st).state = .on)))

/-- Every command completes and leaves the queue of waiting commands; none of the workstation's moves the tick counter
(R91). A row whose event does not arise in the state completes too, by the model's choice (log 3). -/
def Obligations.EveryCommandCompletes : Prop :=
  ∀ (i : Instr) (s : State), ∃ t, exec i s = .next t ∧ t.pending = s.pending
    ∧ (i.frame.isSome = true → t.tick = s.tick)

/-- Each command the unit takes places exactly one reply, ahead of every notice it causes; only an accepted
DIRECT-EXCHANGE leaves it to a later event (R186, R187). Seen where nothing stands and the transmitter is busy. -/
def Obligations.EachCommandRepliesOnceBeforeItsNotices : Prop :=
  ∀ (i : Instr) (f : Frame) (s t : State), i.frame = some f → i.wellFormed = true → s.takesNow f → s.outbound = [] →
    s.sending.isSome = true → exec i s = .next t →
    (∃ x rest, t.outbound = x :: rest ∧ x.isReply = true ∧ ∀ y ∈ rest, y.isReply = false)
      ∨ (t.outbound = [] ∧ t.pendingDirect.isSome = true)

/-- STATUS, DEVICE-INFO and POLICY-LIST change nothing but the link's queues (R85, R129, R177). Where the spec is
silent on a byte of their data, it is the model's (logs 10, 21 to 23). -/
def Obligations.ReportsOnlyReply : Prop :=
  (∀ (s : State) (q : Byte), s.takesNow ⟨0x13, q, []⟩ →
    exec (.status q []) s = .next (s.answeredWith (.reply q 0x93 .done false (statusData s.takeHead))))
  ∧ (∀ (s : State) (q a : Byte) (p : Port), s.takesNow ⟨0x09, q, [a]⟩ → portOfByte a = some p →
    exec (.deviceInfo q [a]) s = .next (s.answeredWith (.reply q 0x89 .done false (deviceInfoData s p))))
  ∧ (∀ (s : State) (q a : Byte), s.takesNow ⟨0x09, q, [a]⟩ → portOfByte a = none →
    exec (.deviceInfo q [a]) s = .next (s.answeredWith (.reply q 0x89 .badRequest false [])))
  ∧ (∀ (s : State) (q start : Byte), s.takesNow ⟨0x06, q, [start]⟩ →
    let shown := (s.policy.drop start.toNat).take 4
    exec (.policyList q [start]) s = .next (s.answeredWith (.reply q 0x86 .done false
      ([byteOf s.policy.length, byteOf shown.length] ++ shown.flatMap (fun e => policyRecord e.key e.policy)
        ++ policyRecord [] s.defaultPolicy))))

/-! ### Sessions -/

/-- OPEN-SESSION with every check of R5 passed takes the session at its station (R4, R6, R120). -/
def Obligations.OpenSessionTakesTheSession : Prop :=
  ∀ (s : State) (q : Byte) (payload : List Byte) (x : OpenRequest) (st : Station),
    s.takesNow ⟨0x01, q, payload⟩ → openRequestOf payload = some x → stationOfByte x.station = some st →
    let l := normaliseSteps s.settings.defaultStepTime x.steps
    x.tag ≠ 0 → 1 ≤ l.value.length → l.value.length ≤ 4 → stepsAllowed false l.value = true → s.counter = .opened →
    (s.session st).state = .idle → s.canServe st l.value = true →
    ∃ t, exec (.openSession q payload) s = .next t
      ∧ (t.session st).state = .running ∧ (t.session st).tag = some x.tag ∧ (t.session st).mode = some x.mode
      ∧ (t.session st).steps = l.value ∧ (t.session st).index = some 1 ∧ (t.session st).phase ≠ none
      ∧ (t.session st).lastTag = (s.session st).lastTag ∧ (t.session st).lastCause = (s.session st).lastCause
      ∧ t.shows (.reply q 0x81 .done l.adjusted [])
      ∧ (t.device (readerOf st)).state = (if needsReader l.value then .engaged else (s.device (readerOf st)).state)
      ∧ (t.device (keypadOf st)).state = (if needsKeypad l.value then .engaged else (s.device (keypadOf st)).state)
      ∧ (∀ y, y ≠ st → t.session y = s.session y) ∧ (∀ p, stationOf p ≠ st → t.device p = s.device p)
      ∧ (∀ y, t.supply y = s.supply y) ∧ t.counter = s.counter ∧ t.tick = s.tick ∧ SameStore s t

/-- The checks of R5 in their order; a refused OPEN-SESSION changes no state. -/
def Obligations.OpenSessionIsRefusedInOrder : Prop :=
  ∀ (s : State) (q : Byte) (payload : List Byte), s.takesNow ⟨0x01, q, payload⟩ →
    let refused := fun o => exec (.openSession q payload) s = .next (s.answeredWith (.reply q 0x81 o false []))
    (openRequestOf payload = none → refused .badRequest)
    ∧ ∀ x, openRequestOf payload = some x →
      (stationOfByte x.station = none → refused .badRequest)
      ∧ ∀ st, stationOfByte x.station = some st →
        let l := (normaliseSteps s.settings.defaultStepTime x.steps).value
        let bad := x.tag = 0 ∨ l.length = 0 ∨ 4 < l.length ∨ stepsAllowed false l = false
        (bad → refused .badRequest)
        ∧ (¬bad → s.counter ≠ .opened → refused .wrongState)
        ∧ (¬bad → s.counter = .opened → (s.session st).state ≠ .idle → refused .busy)
        ∧ (¬bad → s.counter = .opened → (s.session st).state = .idle → s.canServe st l = false → refused .unavailable)

/-- CANCEL-SESSION by the state of the station's session, row by row of the table of R23. -/
def Obligations.CancelSessionByTheTable : Prop :=
  ∀ (s : State) (q b : Byte) (tag : Nat) (payload : List Byte) (st : Station),
    s.takesNow ⟨0x02, q, payload⟩ → cancelRequestOf payload = some (b, tag) → stationOfByte b = some st → tag ≠ 0 →
    let r := s.session st
    let refused := fun o => exec (.cancelSession q payload) s = .next (s.answeredWith (.reply q 0x82 o false []))
    (r.state = .running → r.tag = some tag → r.phase ≠ some .delivering →
      ∃ t, exec (.cancelSession q payload) s = .next t ∧ Ends r (t.session st) .cancelledWorkstation
        ∧ t.shows (.reply q 0x82 .done false []) ∧ (∀ y, y ≠ st → t.session y = s.session y)
        ∧ (∀ y, t.supply y = s.supply y) ∧ t.counter = s.counter ∧ t.tick = s.tick ∧ SameStore s t)
    ∧ (r.state = .running → r.tag = some tag → r.phase = some .delivering → r.lastStep = false → r.cardRefused = false →
      r.deferredCause = none →
      exec (.cancelSession q payload) s = .next
        (((s.takeHead.append (.reply q 0x82 .done false [])).modifySession st
          fun r => { r with deferredCause := some .cancelledWorkstation }).beginNext))
    ∧ (r.state = .running → r.tag = some tag → r.phase = some .delivering →
      (r.lastStep = true ∨ r.cardRefused = true ∨ r.deferredCause ≠ none) → refused .tooLate)
    ∧ (r.state = .ending → r.tag = some tag → refused .tooLate)
    ∧ (r.state = .idle → r.lastTag = some tag → refused .tooLate)
    ∧ (r.state ≠ .idle → r.tag ≠ some tag → refused .notFound)
    ∧ (r.state = .idle → r.lastTag ≠ some tag → refused .notFound)

/-- A granted EXTEND-STEP moves the STEP deadline within the step's budget, and the warning with it (R104, R105). -/
def Obligations.ExtendStepMovesTheDeadlines : Prop :=
  ∀ (s : State) (q b : Byte) (tag amount : Nat) (payload : List Byte) (st : Station) (x : StepRecord) (d : Tick),
    s.takesNow ⟨0x03, q, payload⟩ → extendRequestOf payload = some (b, tag, amount) → stationOfByte b = some st →
    tag ≠ 0 → (s.session st).state = .running → (s.session st).tag = some tag →
    ((s.session st).phase = some .waitingClear ∨ (s.session st).phase = some .active) →
    (s.session st).step? = some x → x.kind.isShow = false → s.deadlineOf (.session st) .step = some d →
    let asked := (clamp 1 600 amount).value
    let granted := min asked (600 - (s.session st).extension)
    let moved := ahead d (granted * 100)
    let lead := s.settings.warnLead
    ∃ t, exec (.extendStep q payload) s = .next t
      ∧ t.deadlineOf (.session st) .step = some moved
      ∧ t.session st = { s.session st with extension := (s.session st).extension + granted }
      ∧ t.shows (.reply q 0x83 .done (asked != amount || decide (granted < asked))
          (le16 granted ++ le16 (remainingTenths s.tick moved)))
      ∧ (granted = 0 → t.deadlineOf (.session st) .warn = s.deadlineOf (.session st) .warn)
      ∧ (granted ≠ 0 → ∀ w, s.deadlineOf (.session st) .warn = some w →
          t.deadlineOf (.session st) .warn = some (ahead w (granted * 100)))
      ∧ (granted ≠ 0 → s.deadlineOf (.session st) .warn = none →
          t.deadlineOf (.session st) .warn =
            if (s.session st).warned = false ∧ lead ≠ 0 ∧ lead * 100 < distance s.tick moved then
              some (moved - BitVec.ofNat 32 (lead * 100))
            else none)
      ∧ t.deadlineOf (.session st) .key = s.deadlineOf (.session st) .key
      ∧ (∀ y, y ≠ st → t.session y = s.session y) ∧ t.devices = s.devices ∧ t.supplies = s.supplies
      ∧ t.counter = s.counter ∧ t.tick = s.tick ∧ SameStore s t

/-! ### The card policy table -/

/-- POLICY-LOAD replaces the entry with its prefix or inserts a new one, and is refused TABLE-FULL when neither can be
(R83). -/
def Obligations.PolicyLoadReplacesOrInserts : Prop :=
  ∀ (s : State) (q : Byte) (payload : List Byte) (x : LoadRequest),
    s.takesNow ⟨0x04, q, payload⟩ → loadRequestOf payload = some x → 1 ≤ x.count → x.count ≤ 10 →
    let p := normalisePolicy x.policy
    p.value.accountMin ≤ p.value.accountMax → p.value.concealedMin ≤ p.value.concealedMax →
    let held := holdsKey x.key s.policy
    let e : PolicyEntry := ⟨x.key, p.value⟩
    ((held = true ∨ s.policy.length < 32) →
      ∃ table i, exec (.policyLoad q payload) s = .next
          (({ s.takeHead with policy := table }.append
            (.reply q 0x84 .done p.adjusted [yesNo held, byteOf i, byteOf table.length])).beginNext)
        ∧ table[i]? = some e
        ∧ table.length = (if held then s.policy.length else s.policy.length + 1)
        ∧ ∀ y, y ∈ table ↔ y = e ∨ (y ∈ s.policy ∧ y.key ≠ x.key))
    ∧ (held = false → 32 ≤ s.policy.length →
      exec (.policyLoad q payload) s = .next
        (s.answeredWith (.reply q 0x84 .tableFull false [byteOf s.policy.length])))

/-- POLICY-DROP removes the one entry with its prefix, in every counter state; a prefix with no digits, more than ten,
or a character that is no digit is refused (R84). A malformed payload, a digit above 9 among them, is answered before
the table's owner sees it, with no count (the model's choice, log 9). -/
def Obligations.PolicyDropRemovesOneEntry : Prop :=
  ∀ (s : State) (q : Byte) (payload : List Byte), s.takesNow ⟨0x05, q, payload⟩ →
    let answers := fun (table : List PolicyEntry) (o : ReplyOutcome) (data : List Byte) =>
      ∃ t, exec (.policyDrop q payload) s = .next t
        ∧ t = { s.takeHead with
            policy := table, pendingFlow := t.pendingFlow, outbound := t.outbound, sending := t.sending }
        ∧ t.shows (.reply q 0x85 o false data)
        ∧ (s.sending.isSome = true → t.outbound = s.outbound ++ [.reply q 0x85 o false data])
    (dropRequestOf payload = none → answers s.policy .badRequest [])
    ∧ ∀ key, dropRequestOf payload = some key →
      (key.length = 0 → answers s.policy .badRequest [byteOf s.policy.length])
      ∧ (10 < key.length → ∃ data, answers s.policy .badRequest data)
      ∧ (1 ≤ key.length → key.length ≤ 10 → (∀ y ∈ s.policy, y.key ≠ key) →
        answers s.policy .notFound [byteOf s.policy.length])
      ∧ (1 ≤ key.length → key.length ≤ 10 → ∀ before e after, s.policy = before ++ e :: after → e.key = key →
        (∀ y ∈ before ++ after, y.key ≠ key) →
        answers (before ++ after) .done [byteOf (before ++ after).length])

/-- DEFAULT-POLICY replaces the default policy whole, and SET-DATE sets the business month, or each is refused and
changes no state (R82, R86, R88). -/
def Obligations.DefaultPolicyAndDateAreStored : Prop :=
  (∀ (s : State) (q : Byte) (payload : List Byte) (x : Policy), s.takesNow ⟨0x07, q, payload⟩ →
    defaultRequestOf payload = some x →
    let p := normalisePolicy x
    ((p.value.accountMin ≤ p.value.accountMax ∧ p.value.concealedMin ≤ p.value.concealedMax) →
      exec (.defaultPolicy q payload) s = .next
        (({ s.takeHead with defaultPolicy := p.value }.append (.reply q 0x87 .done p.adjusted [])).beginNext))
    ∧ (¬(p.value.accountMin ≤ p.value.accountMax ∧ p.value.concealedMin ≤ p.value.concealedMax) →
      exec (.defaultPolicy q payload) s = .next (s.answeredWith (.reply q 0x87 .badRequest false []))))
  ∧ (∀ (s : State) (q year month : Byte), s.takesNow ⟨0x08, q, [year, month]⟩ →
    ((year.toNat ≤ 99 ∧ 1 ≤ month.toNat ∧ month.toNat ≤ 12) →
      exec (.setDate q [year, month]) s = .next
        (({ s.takeHead with businessMonth := some ⟨year.toNat, month.toNat⟩ }.append
          (.reply q 0x88 .done false [])).beginNext))
    ∧ ((99 < year.toNat ∨ month.toNat = 0 ∨ 12 < month.toNat) →
      exec (.setDate q [year, month]) s = .next (s.answeredWith (.reply q 0x88 .badRequest false []))))

/-- On a table in the order of R81 the lookup yields the matching entry with the longest prefix, and the default
policy with an empty prefix when none matches (R87). -/
def Obligations.LookupYieldsTheLongestPrefix : Prop :=
  ∀ (table : List PolicyEntry) (default : Policy) (account : Digits),
    table.Pairwise (fun a b => keyBefore a.key b.key = true) →
    ((∀ e ∈ table, ¬e.key <+: account) → lookupPolicy table default account = ⟨[], default⟩)
    ∧ ((∃ e ∈ table, e.key <+: account) →
      lookupPolicy table default account ∈ table ∧ (lookupPolicy table default account).key <+: account
        ∧ ∀ e ∈ table, e.key <+: account → e ≠ lookupPolicy table default account →
          e.key.length < (lookupPolicy table default account).key.length)

/-! ### Devices and supplies by command -/

/-- DEVICE-RELEASE puts a HELD device in ABSENT with restart count 0, its reply ahead of its notice, and refuses an
address outside 1..16 and a device that is not HELD (R118). -/
def Obligations.DeviceReleaseReturnsAHeldDevice : Prop :=
  ∀ (s : State) (q a : Byte), s.takesNow ⟨0x0A, q, [a]⟩ →
    (portOfByte a = none →
      exec (.deviceRelease q [a]) s = .next (s.answeredWith (.reply q 0x8A .badRequest false [])))
    ∧ ∀ p, portOfByte a = some p →
      ((s.device p).state ≠ .held →
        exec (.deviceRelease q [a]) s = .next (s.answeredWith (.reply q 0x8A .wrongState false [])))
      ∧ ((s.device p).state = .held →
        ∃ t, exec (.deviceRelease q [a]) s = .next t
          ∧ t.device p = { s.device p with
              state := .absent, restartCount := 0, heldReason := none, identity := none, status := none }
          ∧ (t.waited p).isSome = true ∧ t.shows (.reply q 0x8A .done false [])
          ∧ (∃ before n, t.shows (.deviceChange p before .absent .released n))
          ∧ (s.sending.isSome = true → (∀ x ∈ s.outbound, x.key ≠ some (.deviceChange p)) →
            t.outbound = s.outbound ++ [.reply q 0x8A .done false [], .deviceChange p .held .absent .released 1])
          ∧ (∀ x, x ≠ p → t.device x = s.device x) ∧ t.sessions = s.sessions ∧ t.supplies = s.supplies
          ∧ t.deadlines = s.deadlines ∧ t.counter = s.counter ∧ t.tick = s.tick ∧ SameStore s t)

/-- DIRECT-EXCHANGE becomes the pending direct exchange, or is refused, by the device's state (R145). -/
def Obligations.DirectExchangeWaitsForTheBus : Prop :=
  ∀ (s : State) (q a : Byte) (payload l : List Byte), s.takesNow ⟨0x0B, q, payload⟩ →
    directRequestOf payload = some (a, l) →
    let refused := fun o => exec (.directExchange q payload) s = .next (s.answeredWith (.reply q 0x8B o false []))
    (portOfByte a = none → refused .badRequest)
    ∧ ∀ p, portOfByte a = some p →
      (40 < l.length → refused .badRequest)
      ∧ (l.length ≤ 40 → ((s.device p).state = .held ∨ (s.device p).state = .unpowered ∨ (s.device p).state = .absent) →
        refused .unavailable)
      ∧ (l.length ≤ 40 → (s.device p).state = .engaged → refused .busy)
      ∧ (l.length ≤ 40 →
        ((s.device p).state = .joining ∨ (s.device p).state = .ready ∨ (s.device p).state = .dozing
          ∨ (s.device p).state = .restarting) →
        exec (.directExchange q payload) s = .next ({ s.takeHead with pendingDirect := some ⟨p, l, q⟩ }.beginNext))

/-- SUPPLY-OFF by the supply's state (R156). -/
def Obligations.SupplyOffSwitchesOff : Prop :=
  ∀ (s : State) (q b : Byte) (st : Station), s.takesNow ⟨0x0C, q, [b]⟩ → stationOfByte b = some st →
    let trips := byteOf (s.supply st).tripCount
    ((s.session st).state ≠ .idle →
      exec (.supplyOff q [b]) s = .next
        (s.answeredWith (.reply q 0x8C .busy false [(s.supply st).state.code, trips])))
    ∧ ((s.session st).state = .idle → (s.supply st).state = .locked →
      exec (.supplyOff q [b]) s = .next (s.answeredWith (.reply q 0x8C .done false [5, trips])))
    ∧ ((s.session st).state = .idle → (s.supply st).state = .off →
      exec (.supplyOff q [b]) s = .next
        (((s.takeHead.modifySupply st fun r => { r with heldOff := true }).append
          (.reply q 0x8C .done false [1, trips])).beginNext))
    ∧ ((s.session st).state = .idle →
      ((s.supply st).state = .trial ∨ (s.supply st).state = .on ∨ (s.supply st).state = .cooling) →
      ∃ t, exec (.supplyOff q [b]) s = .next t
        ∧ t.supply st = { s.supply st with state := .off, overRun := 0, draw := false, heldOff := true }
        ∧ t.deadlineOf (.supply st) .supply = none ∧ t.shows (.reply q 0x8C .done false [1, trips])
        ∧ ((s.supply st).state = .on →
          (t.device (readerOf st)).state = .unpowered ∧ (t.device (keypadOf st)).state = .unpowered)
        ∧ (∀ y, y ≠ st → t.supply y = s.supply y ∧ t.session y = s.session y)
        ∧ (∀ p, stationOf p ≠ st → t.device p = s.device p) ∧ t.tick = s.tick ∧ SameStore s t)

/-- SUPPLY-RESTORE by the supply's state and the counter (R157). -/
def Obligations.SupplyRestoreStartsAgain : Prop :=
  ∀ (s : State) (q b : Byte) (st : Station), s.takesNow ⟨0x0D, q, [b]⟩ → stationOfByte b = some st →
    (((s.supply st).state = .trial ∨ (s.supply st).state = .on ∨ (s.supply st).state = .cooling) →
      exec (.supplyRestore q [b]) s = .next
        (s.answeredWith (.reply q 0x8D .done false [(s.supply st).state.code, byteOf (s.supply st).tripCount])))
    ∧ (((s.supply st).state = .off ∨ (s.supply st).state = .locked) → s.counter ≠ .closed →
      ∃ t, exec (.supplyRestore q [b]) s = .next t
        ∧ t.supply st =
          { s.supply st with state := .trial, tripCount := 0, overRun := 0, draw := false, heldOff := false }
        ∧ t.deadlineOf (.supply st) .supply = some (ahead s.tick 200) ∧ t.shows (.reply q 0x8D .done false [2, 0])
        ∧ (∀ y, y ≠ st → t.supply y = s.supply y) ∧ t.sessions = s.sessions ∧ t.devices = s.devices
        ∧ t.counter = s.counter ∧ t.tick = s.tick ∧ SameStore s t)
    ∧ (((s.supply st).state = .off ∨ (s.supply st).state = .locked) → s.counter = .closed →
      ∃ t, exec (.supplyRestore q [b]) s = .next t
        ∧ t.supply st = { s.supply st with state := .off, tripCount := 0, heldOff := false }
        ∧ t.shows (.reply q 0x8D .done false [1, 0])
        ∧ (∀ y, y ≠ st → t.supply y = s.supply y) ∧ t.sessions = s.sessions ∧ t.devices = s.devices
        ∧ t.deadlines = s.deadlines ∧ t.counter = s.counter ∧ t.tick = s.tick ∧ SameStore s t)

/-! ### The counter by command -/

/-- DOZE-COUNTER by the counter state (R169). -/
def Obligations.DozeCounterEntersLull : Prop :=
  ∀ (s : State) (q : Byte) (payload : List Byte) (mask : Vector WakeFlags 8),
    s.takesNow ⟨0x0E, q, payload⟩ → wakeMaskOf payload = some mask →
    let refused := fun o => exec (.dozeCounter q payload) s = .next (s.answeredWith (.reply q 0x8E o false []))
    (s.counter ≠ .opened → s.counter ≠ .lull → refused .wrongState)
    ∧ (s.counter = .opened → (∃ st, (s.session st).state ≠ .idle) → refused .busy)
    ∧ (s.counter = .lull →
      exec (.dozeCounter q payload) s = .next
        (({ s.takeHead with wakeMask := mask }.append (.reply q 0x8E .done false [])).beginNext))
    ∧ (s.counter = .opened → (∀ st, (s.session st).state = .idle) →
      ∃ t, exec (.dozeCounter q payload) s = .next t
        ∧ t.counter = .lull ∧ t.wakeMask = mask ∧ t.deadlineOf .counter .supervision = none
        ∧ t.textOwed = Vector.replicate 8 none ∧ t.shows (.reply q 0x8E .done false [])
        ∧ (∀ p, (t.device p).state = (s.device p).state)
        ∧ t.sessions = s.sessions ∧ t.supplies = s.supplies ∧ t.wakeCause = s.wakeCause ∧ t.tick = s.tick
        ∧ SameStore s t)

/-- OPEN-COUNTER by the counter state (R172). A settle time of 0 takes the counter through WAKING at once (R171).
WAKING and OPEN then fall in one row (log 6). -/
def Obligations.OpenCounterWakesOrReopens : Prop :=
  ∀ (s : State) (q : Byte), s.takesNow ⟨0x0F, q, []⟩ →
    let awake : CounterState := if s.settleTicks = 0 then .opened else .waking
    (s.counter = .starting →
      exec (.openCounter q []) s = .next (s.answeredWith (.reply q 0x8F .wrongState false [])))
    ∧ ((s.counter = .opened ∨ s.counter = .waking) →
      exec (.openCounter q []) s = .next (s.answeredWith (.reply q 0x8F .done false [])))
    ∧ (s.counter = .lull →
      ∃ t, exec (.openCounter q []) s = .next t ∧ t.counter = awake ∧ t.wakeCause = some ⟨.workstation, none⟩
        ∧ t.deadlineOf .counter .supervision = some (ahead s.tick (s.settings.supervision * 1000))
        ∧ (s.settleTicks ≠ 0 → t.deadlineOf .counter .settle = some (ahead s.tick s.settleTicks))
        ∧ t.shows (.reply q 0x8F .done false []) ∧ t.sessions = s.sessions ∧ t.supplies = s.supplies
        ∧ t.tick = s.tick ∧ SameStore s t)
    ∧ (s.counter = .closed →
      ∃ t, exec (.openCounter q []) s = .next t ∧ t.counter = awake ∧ t.wakeCause = some ⟨.workstation, none⟩
        ∧ t.deadlineOf .counter .supervision = some (ahead s.tick (s.settings.supervision * 1000))
        ∧ (s.settleTicks ≠ 0 → t.deadlineOf .counter .settle = some (ahead s.tick s.settleTicks))
        ∧ (∀ st, if (s.supply st).state = .off ∧ (s.supply st).heldOff = false then (t.supply st).state = .trial
            else t.supply st = s.supply st)
        ∧ t.shows (.reply q 0x8F .done false []) ∧ t.sessions = s.sessions ∧ t.tick = s.tick ∧ SameStore s t)
    ∧ (s.counter = .orphaned →
      ∃ t, exec (.openCounter q []) s = .next t ∧ t.counter = .opened
        ∧ t.deadlineOf .counter .supervision = some (ahead s.tick (s.settings.supervision * 1000))
        ∧ (∀ st : Station,
          t.textOwed[st.val] = if (s.session st).state = .ending then some .idle else s.textOwed[st.val])
        ∧ t.shows (.reply q 0x8F .done false []) ∧ t.sessions = s.sessions ∧ t.supplies = s.supplies
        ∧ t.tick = s.tick ∧ SameStore s t)

/-- CLOSE-COUNTER by the counter state (R173, R158). -/
def Obligations.CloseCounterSwitchesTheSuppliesOff : Prop :=
  ∀ (s : State) (q : Byte), s.takesNow ⟨0x10, q, []⟩ →
    let refused := fun o => exec (.closeCounter q []) s = .next (s.answeredWith (.reply q 0x90 o false []))
    (s.counter = .starting → refused .wrongState)
    ∧ (s.counter = .closed → refused .done)
    ∧ (s.counter ≠ .starting → s.counter ≠ .closed → (∃ st, (s.session st).state ≠ .idle) → refused .busy)
    ∧ (s.counter ≠ .starting → s.counter ≠ .closed → (∀ st, (s.session st).state = .idle) →
      ∃ t, exec (.closeCounter q []) s = .next t ∧ t.counter = .closed
        ∧ t.deadlineOf .counter .supervision = none ∧ t.deadlineOf .counter .settle = none
        ∧ t.textOwed = Vector.replicate 8 none
        ∧ (∀ st, if (s.supply st).state = .off ∨ (s.supply st).state = .locked then t.supply st = s.supply st
            else t.supply st = { s.supply st with state := .off, overRun := 0, draw := false, heldOff := false })
        ∧ (∀ p, (s.supply (stationOf p)).state = .on → (t.device p).state = .unpowered)
        ∧ t.shows (.reply q 0x90 .done false []) ∧ t.tick = s.tick ∧ SameStore s t)

/-- SETTINGS stores every value given, brought into its range, and answers all seven (R174); restart counts follow a
lowered limit (R116). -/
def Obligations.SettingsAreStoredTogether : Prop :=
  ∀ (s : State) (q : Byte) (payload : List Byte) (l : List (Byte × Nat)),
    s.takesNow ⟨0x11, q, payload⟩ → settingsRequestOf payload = some l →
    (((∃ x ∈ l, settingNameOf x.1 = none) ∨ ¬(l.map (·.1)).Nodup) →
      exec (.settings q payload) s = .next (s.answeredWith (.reply q 0x91 .badRequest false [])))
    ∧ ((∀ x ∈ l, settingNameOf x.1 ≠ none) → (l.map (·.1)).Nodup →
      ∃ (x : Settings) (adjusted : Bool),
        exec (.settings q payload) s = .next
          (({ s.takeHead with
              settings := x
              devices := s.devices.map fun d : Device =>
                ({ d with restartCount := min d.restartCount x.restartLimit } : Device) }.append
            (.reply q 0x91 .done adjusted x.bytes)).beginNext)
        ∧ (∀ n b v, settingNameOf b = some n → (b, v) ∈ l → x.get n = (settingInRange n v).value)
        ∧ (∀ n, (∀ y ∈ l, settingNameOf y.1 ≠ some n) → x.get n = s.settings.get n)
        ∧ (adjusted = true ↔ ∃ n b v, settingNameOf b = some n ∧ (b, v) ∈ l ∧ (settingInRange n v).value ≠ v))

/-- IDLE-TEXT stores the normalised text for its target and queues it where it is due: at the READY or DOZING keypads
of the stations named while the counter shows idle texts, and at every such keypad for the closed text in ORPHANED
(R175). -/
def Obligations.IdleTextIsStored : Prop :=
  ∀ (s : State) (q b : Byte) (payload : List Byte) (x : Text),
    s.takesNow ⟨0x12, q, payload⟩ → idleTextRequestOf payload = some (b, x) →
    let n := normaliseText x
    let awake := fun st => (s.device (keypadOf st)).state = .ready ∨ (s.device (keypadOf st)).state = .dozing
    let queued := fun (t : State) st => t.awaitsText (keypadOf st) n.value
    (textTargetOf b = none →
      exec (.idleText q payload) s = .next (s.answeredWith (.reply q 0x92 .badRequest false [])))
    ∧ ∀ target, textTargetOf b = some target →
      ∃ t, exec (.idleText q payload) s = .next t ∧ t.shows (.reply q 0x92 .done n.adjusted [])
        ∧ (match target with
          | .allStations => t.idleTexts = Vector.replicate 8 n.value ∧ t.closedText = s.closedText
              ∧ (s.counter.showsIdle = true → ∀ st, awake st → queued t st)
              ∧ (s.counter.showsIdle = false → t.devices = s.devices)
          | .station st => t.idleTexts = s.idleTexts.set st.val n.value ∧ t.closedText = s.closedText
              ∧ (s.counter.showsIdle = true → awake st → queued t st)
              ∧ (s.counter.showsIdle = false → t.devices = s.devices)
              ∧ (∀ y, y ≠ st → t.device (keypadOf y) = s.device (keypadOf y))
          | .closed => t.idleTexts = s.idleTexts ∧ t.closedText = n.value
              ∧ (s.counter = .orphaned → ∀ st, awake st → queued t st)
              ∧ (s.counter ≠ .orphaned → t.devices = s.devices))
        ∧ (∀ st, t.device (readerOf st) = s.device (readerOf st))
        ∧ (∀ p, (t.device p).state = (s.device p).state) ∧ t.sessions = s.sessions ∧ t.supplies = s.supplies
        ∧ t.counter = s.counter ∧ t.settings = s.settings ∧ t.policy = s.policy
        ∧ t.defaultPolicy = s.defaultPolicy ∧ t.businessMonth = s.businessMonth ∧ t.tick = s.tick

/-- RESET-HUB records the reset as pending and answers DONE (R178); a kind that names no command is answered
BAD-REQUEST with the kind 0x80 plus its low seven bits (R187, section 11.2). So is every command whose payload has 241
bytes, which exceeds every command's form (R183, which the model follows against the texts of R192 and R3, log 31). -/
def Obligations.ResetIsRecordedAndUnknownKindsAreRefused : Prop :=
  (∀ (s : State) (q b : Byte) (k : ResetKind), s.takesNow ⟨0x14, q, [b]⟩ → resetKindOf [b] = some k →
    exec (.resetHub q [b]) s = .next
      (({ s.takeHead with resetPending := some k }.append (.reply q 0x94 .done false [])).beginNext))
  ∧ (∀ (s : State) (q b : Byte), s.takesNow ⟨0x14, q, [b]⟩ → b ≠ 1 → b ≠ 2 →
    exec (.resetHub q [b]) s = .next (s.answeredWith (.reply q 0x94 .badRequest false [])))
  ∧ (∀ (s : State) (k q : Byte) (payload : List Byte), s.takesNow ⟨k, q, payload⟩ → namesCommand k = false →
    exec (.unknownCommandKind k q payload) s = .next
      (s.answeredWith (.reply q (BitVec.ofNat 8 (0x80 + k.toNat % 128)) .badRequest false [])))
  ∧ (∀ (s : State) (i : Instr) (f : Frame), i.frame = some f → i.wellFormed = true → f.payload.length = 241 →
    s.takesNow f → exec i s = .next
      (s.answeredWith (.reply f.sequence (BitVec.ofNat 8 (0x80 + f.kind.toNat % 128)) .badRequest false [])))

/-! ### The link -/

/-- A frame laid out as section 11.2 gives, its bytes arriving in time at a hunting receiver, is a good frame with the
kind, sequence and payload it was made from (R182 to R184). A frame received in one row is in time when the byte times
of all its bytes fit in 20 ms (log 8). -/
def Obligations.LinkFrameRoundTrip : Prop :=
  ∀ (s : State) (k q : Byte) (payload : List Byte), s.receiver = .hunting → payload.length ≤ 241 →
    s.rate.fits (payload.length + 7) 0 = true →
    exec (.receiveFrame (onLine (linkFrame k q payload))) s = .next ((s.goodFrame ⟨k, q, payload⟩).beginNext)

/-- What a good frame does: supervision placed anew or the counter reopened, then the frame appended or dropped, with
HOLD pending at a count of 6 (R166, R168, R184, R185). -/
def Obligations.GoodFrameIsCountedAndAppended : Prop :=
  ∀ (s : State) (f : Frame),
    let t := s.goodFrame f
    (s.intake.length < 8 → t.intake = s.intake ++ [f]) ∧ (8 ≤ s.intake.length → t.intake = s.intake)
    ∧ (s.intake.length = 5 → t.pendingFlow = some .hold ∧ t.holding = true)
    ∧ (s.intake.length ≠ 5 → t.pendingFlow = s.pendingFlow ∧ t.holding = s.holding)
    ∧ ((s.counter = .starting ∨ s.counter = .opened ∨ s.counter = .waking ∨ s.counter = .orphaned) →
        t.deadlineOf .counter .supervision = some (ahead s.tick (s.settings.supervision * 1000)))
    ∧ ((s.counter = .lull ∨ s.counter = .closed) → t.deadlines = s.deadlines)
    ∧ t.counter = (if s.counter = .orphaned then .opened else s.counter)
    ∧ t.sessions = s.sessions ∧ t.supplies = s.supplies ∧ t.tick = s.tick ∧ SameStore s t

/-- A frame not complete 20 ms after its start byte is discarded, and nothing else changes but the clock, the samples
taken on the way and the devices that fall due there (R183, log 1). The 20 ms have passed at the first tick at which
the ticks since the start byte and the byte times so far make them up, and a byte that would end later is hunted on
(log 8). -/
def Obligations.LateFrameIsDiscarded : Prop :=
  ∀ (s : State) (bytes : List Byte) (start : Tick), s.receiver = .assembling bytes start →
    let g := s.rate.limitTicks (bytes.length + 1)
    (20 * s.rate.baud ≤ g * s.rate.baud + (bytes.length + 1) * 10000
      ∧ ∀ k, k < g → k * s.rate.baud + (bytes.length + 1) * 10000 < 20 * s.rate.baud)
    ∧ (∀ u, s.reach (ahead start g) = some u →
      exec .frameTimeout s = .next ({ u with receiver := .hunting }.beginNext)
        ∧ u = { s with
            tick := s.tickAt (ahead start g), slotServed := u.slotServed, supplies := u.supplies
            nextDue := u.nextDue })
    ∧ ∀ (b : LineByte) (rest : List LineByte),
      20 * s.rate.baud < (s.tick - start).toNat * s.rate.baud + (bytes.length + 2) * 10000 →
      exec (.receiveFrame (b :: rest)) s = exec (.receiveFrame (b :: rest)) { s with receiver := .hunting }

/-- CTS acts on the start of a frame alone: at a frame boundary with CTS on, a pending flow frame goes first, then the
head of the outbound queue (R185, R190). -/
def Obligations.CtsGatesTheNextFrame : Prop :=
  ∀ (s : State) (on : Bool), ∃ t, exec (.ctsChange on) s = .next t
    ∧ t = { s with cts := on, pendingFlow := t.pendingFlow, outbound := t.outbound, sending := t.sending }
    ∧ ((on = false ∨ s.sending ≠ none) →
      t.pendingFlow = s.pendingFlow ∧ t.outbound = s.outbound ∧ t.sending = s.sending)
    ∧ (on = true → s.sending = none →
      (∀ f, s.pendingFlow = some f →
        t.pendingFlow = none ∧ t.outbound = s.outbound ∧ t.sending = some ⟨.flow f, (Outgoing.flow f).bytes⟩)
      ∧ (s.pendingFlow = none → ∀ i rest, s.outbound = i :: rest →
        t.pendingFlow = none ∧ t.outbound = rest ∧ t.sending = some ⟨.item i, (Outgoing.item i).bytes⟩)
      ∧ (s.pendingFlow = none → s.outbound = [] → t.sending = none ∧ t.outbound = []))

/-- A frame that leaves the line and is reported to no block frees the transmitter; a SESSION-END lets the station's
pending result be placed (R14, R190). FRAME_SENT with nothing in transmission only lets the transmitter begin, by the
model's choice (log 3). -/
def Obligations.SentFrameFreesTheTransmitter : Prop :=
  (∀ (s : State), s.sending = none → exec .frameSent s = .next s.beginNext)
  ∧ (∀ (s : State) (f : Flow) (b : List Byte), s.sending = some ⟨.flow f, b⟩ →
    exec .frameSent s = .next ({ s with sending := none }.beginNext))
  ∧ (∀ (s : State) (i : Item) (b : List Byte), s.sending = some ⟨.item i, b⟩ → i.key ≠ none →
    exec .frameSent s = .next ({ s with sending := none }.beginNext))
  ∧ (∀ (s : State) (q k : Byte) (o : ReplyOutcome) (a : Bool) (l b : List Byte),
    s.sending = some ⟨.item (.reply q k o a l), b⟩ → (s.resetPending = none ∨ k ≠ 0x94 ∨ o ≠ .done) →
    exec .frameSent s = .next ({ s with sending := none }.beginNext))
  ∧ (∀ (s : State) (st : Station) (tag : Nat) (c : EndCause) (b : List Byte) (r : StepResult),
    s.sending = some ⟨.item (.sessionEnd st tag c), b⟩ → s.outbound.any (Item.isResultOf st) = false →
    (s.session st).pendingResult = some r →
    ∃ t, exec .frameSent s = .next t ∧ t.shows (.stepResult r) ∧ (t.session st).pendingResult = none)

/-- The end of DELIVERING, when the step's result has left the line (R16, R17). -/
def Obligations.SentResultEndsDelivering : Prop :=
  ∀ (s : State) (r : StepResult) (b : List Byte), s.sending = some ⟨.item (.stepResult r), b⟩ →
    let x := s.session r.station
    x.state = .running → x.phase = some .delivering → x.pendingResult = none →
    ∃ t, exec .frameSent s = .next t
      ∧ (x.cardRefused = true → Ends x (t.session r.station) .cardRefused)
      ∧ (x.cardRefused = false → ∀ c, x.deferredCause = some c → Ends x (t.session r.station) c)
      ∧ (x.cardRefused = false → x.deferredCause = none → x.lastStep = true →
        Ends x (t.session r.station) .completed)
      ∧ (x.cardRefused = false → x.deferredCause = none → ∀ i next, x.index = some i → x.steps[i]? = some next →
        (x.policyConflict next.kind = true → Ends x (t.session r.station) .policyConflict)
        ∧ (x.policyConflict next.kind = false →
          (t.session r.station).state = .running ∧ (t.session r.station).index = some (i + 1)
            ∧ (t.session r.station).phase ≠ some .delivering ∧ (t.session r.station).steps = x.steps))
      ∧ (∀ y, y ≠ r.station → t.session y = s.session y) ∧ (∀ y, t.supply y = s.supply y)
      ∧ t.counter = s.counter ∧ t.tick = s.tick ∧ SameStore s t

/-- A soft or full reset takes effect when the DONE reply of RESET-HUB has left the line (R178, R164, R176). -/
def Obligations.ResetTakesEffectWhenItsReplyHasLeft : Prop :=
  ∀ (s : State) (k : ResetKind) (q : Byte) (a : Bool) (l b : List Byte),
    s.sending = some ⟨.item (.reply q 0x94 .done a l), b⟩ → s.resetPending = some k →
    ∃ t, exec .frameSent s = .next t
      ∧ (∀ st, t.session st = Session.blank) ∧ t.intake = [] ∧ t.holding = false ∧ t.resetPending = none
      ∧ (∀ st, if (s.supply st).state = .off ∧ (s.supply st).heldOff = false then (t.supply st).state = .trial
          else t.supply st = s.supply st)
      ∧ ((∃ st, (t.supply st).state ≠ .off ∧ (t.supply st).state ≠ .locked) → t.counter = .starting)
      ∧ ((∀ st, (t.supply st).state = .off ∨ (t.supply st).state = .locked) → t.counter = .opened)
      ∧ t.wakeCause = none ∧ t.wakeMask = Vector.replicate 8 ⟨false, false, false, false⟩
      ∧ t.deadlineOf .counter .supervision = some (ahead s.tick 30000)
      ∧ (∀ st j, j ≠ .supply → t.deadlineOf (.session st) j = none)
      ∧ (∀ p j, j ≠ .supply → t.deadlineOf (.device p) j = none)
      ∧ (∀ p, if (s.device p).state = .unpowered then (t.device p).state = .unpowered
          else (t.device p).state = .absent ∧ (t.device p).restartCount = 0)
      ∧ (k = .soft → SameStore s t)
      ∧ (k = .full → t.settings = Settings.powerOn ∧ t.policy = [] ∧ t.defaultPolicy = Policy.powerOn
          ∧ t.businessMonth = none ∧ t.closedText = powerOnClosedText ∧ t.idleTexts = Vector.replicate 8 [])
      ∧ t.flight = s.flight ∧ t.receiver = s.receiver ∧ t.rate = s.rate ∧ t.tick = s.tick

/-- POWER_ON_RESET and RESET_INPUT give every block its power-on values and read the rate straps (R179, R181, R191).
The levels of CTS and of the sense inputs are the surroundings', and stay, and nothing stays in transmission or in
flight (the model's choices, logs 4 and 19). -/
def Obligations.PowerOnGivesEveryBlockItsPowerOnValues : Prop :=
  ∀ (s : State) (x : Straps),
    let rate : Rate := if x.first then (if x.second then .baud921600 else .baud460800)
      else (if x.second then .baud230400 else .baud115200)
    let t := { State.reset with rate := rate, cts := s.cts, sense := s.sense, pending := s.pending }.beginNext
    exec (.powerOnReset x) s = .next t ∧ exec (.resetInput x) s = .next t
      ∧ t.tick = 0 ∧ t.counter = .starting ∧ t.receiver = .hunting ∧ t.intake = []
      ∧ (∀ st, t.session st = Session.blank ∧ (t.supply st).state = .trial ∧ (t.supply st).tripCount = 0)
      ∧ (∀ p, (t.device p).state = .unpowered) ∧ t.policy = [] ∧ t.settings = Settings.powerOn

/-! ### Supplies -/

/-- A row that carries the clock to an instant takes the samples of the slots on the way, each of the level that
stands at the station's sense input (the model's choice, log 1), and a device whose next due tick is reached becomes
due and stays due (R142); it waits where a deadline, or a sample that is over
or changes draw present, comes first. One sample of a supply in TRIAL or ON, and the trip at the third over sample in
a row (R149, R151, R152). -/
def Obligations.SampleIsJudged : Prop :=
  (∀ (s : State) (t : Tick), isDue s.tick t = false →
    let sampled := fun st : Station => (s.supply st).state = .trial ∨ (s.supply st).state = .on
    let passed := fun st : Station => sampled st ∧ ∃ k, k < distance s.tick t ∧ (k = 0 → s.slotServed = false)
      ∧ (ahead s.tick k).toNat % 10 = st.val
    let quiet := fun st : Station => 2 * (s.sense[st.val]).toNat ≤ s.settings.highThreshold
      ∧ ((s.supply st).draw = true ↔ s.settings.lowThreshold ≤ 2 * (s.sense[st.val]).toNat)
    ((∃ u, s.reach t = some u) ↔
      (∀ e rest, s.deadlines = e :: rest →
        isDue s.tick e.deadline = false ∧ distance s.tick t ≤ distance s.tick e.deadline)
      ∧ ∀ st, passed st → quiet st)
    ∧ ∀ u, s.reach t = some u →
      u = { s with tick := t, slotServed := u.slotServed, supplies := u.supplies, nextDue := u.nextDue }
      ∧ DuesPass s u
      ∧ (u.slotServed = false ↔ ∃ st : Station, t.toNat % 10 = st.val ∧ sampled st)
      ∧ ∀ st, (passed st →
          u.supply st = { s.supply st with lastSample := some s.sense[st.val], overRun := 0 })
        ∧ (¬passed st → u.supply st = s.supply st))
  ∧ ∀ (s u : State) (st : Station) (c : SenseCode),
    ((s.supply st).state = .trial ∨ (s.supply st).state = .on) → s.reachSlot st c = some u →
    let r := u.supply st
    let draw := decide (s.settings.lowThreshold ≤ 2 * c.toNat)
    u.tick.toNat % 10 = st.val ∧ u.slotServed = true ∧
    ∃ t, exec (.supplySample st c) s = .next t ∧ t.tick = u.tick
      ∧ (2 * c.toNat ≤ s.settings.highThreshold →
        t.supply st = { r with lastSample := some c, draw := draw, overRun := 0 })
      ∧ (s.settings.highThreshold < 2 * c.toNat → r.overRun < 2 →
        t.supply st = { r with lastSample := some c, draw := draw, overRun := r.overRun + 1 })
      ∧ (s.settings.highThreshold < 2 * c.toNat → 2 ≤ r.overRun →
        t.supply st = { r with
            lastSample := some c, draw := false, overRun := 0, tripCount := r.tripCount + 1
            state := if r.tripCount + 1 = 3 then .locked else .cooling }
          ∧ t.deadlineOf (.supply st) .supply = (if r.tripCount + 1 = 3 then none else some (ahead u.tick 5000))
          ∧ (r.state = .on →
            (t.device (readerOf st)).state = .unpowered ∧ (t.device (keypadOf st)).state = .unpowered
            ∧ ((s.session st).state = .running → (s.session st).phase ≠ some .delivering →
              ((s.device (readerOf st)).state = .engaged ∨ (s.device (keypadOf st)).state = .engaged) →
              Ends (s.session st) (t.session st) .deviceLost)))
      ∧ (∀ y, y ≠ st → t.supply y = u.supply y ∧ t.session y = s.session y)
      ∧ (∀ p, stationOf p ≠ st → t.device p = s.device p) ∧ SameStore s t

/-- A supply in COOLING is not sampled; it enters TRIAL with its trip count when its cool-down falls due, and keeps
the count through the trial (R154). A SUPPLY_SAMPLE row of such a supply does nothing of its own (log 3). The clock
stands at the instant named, by the model's choice (log 1). -/
def Obligations.CooledSupplyEntersTrial : Prop :=
  (∀ (s : State) (st : Station) (c : SenseCode), (s.supply st).state = .cooling →
    exec (.supplySample st c) s = .next s.beginNext)
  ∧ (∀ (s u : State) (st : Station) (d : Tick) (rest : List Entry), (s.supply st).state = .cooling →
    s.deadlines = ⟨.supply st, .supply, d⟩ :: rest → s.reach d = some u →
    ∃ t, exec (.cooled st) s = .next t ∧ t.tick = s.tickAt d
      ∧ t.supply st = { s.supply st with state := .trial, overRun := 0, draw := false }
      ∧ t.deadlineOf (.supply st) .supply = some (ahead (s.tickAt d) 200)
      ∧ (∃ before n, t.shows (.supplyChange st before .trial .cooled (s.supply st).tripCount
          ((s.supply st).lastSample.map fun c => 2 * c.toNat) n))
      ∧ ((∀ x ∈ s.outbound, x.key ≠ some (.supplyChange st)) →
        t.shows (.supplyChange st .cooling .trial .cooled (s.supply st).tripCount
          ((s.supply st).lastSample.map fun c => 2 * c.toNat) 1))
      ∧ (∀ y, y ≠ st → t.supply y = u.supply y) ∧ t.sessions = s.sessions ∧ t.devices = s.devices
      ∧ t.counter = s.counter ∧ SameStore s t)
  ∧ (∀ (s t : State) (st : Station), (s.supply st).state = .trial → exec (.trialPassed st) s = .next t →
    (t.supply st).tripCount = (s.supply st).tripCount)

/-- A supply whose trial runs out enters ON and powers its devices (R153, R119); the clean period sets the trip count
to 0 (R155). The clock stands at the instant named, by the model's choice (log 1). -/
def Obligations.TrialAndCleanPeriodRunOut : Prop :=
  (∀ (s u : State) (st : Station) (d : Tick) (rest : List Entry), (s.supply st).state = .trial →
    s.deadlines = ⟨.supply st, .supply, d⟩ :: rest → s.reach d = some u →
    ∃ t, exec (.trialPassed st) s = .next t ∧ t.tick = s.tickAt d
      ∧ t.supply st = { u.supply st with state := .on }
      ∧ t.deadlineOf (.supply st) .supply = some (ahead (s.tickAt d) 600000)
      ∧ (∀ p, stationOf p = st → (s.device p).state = .unpowered →
        t.device p = { s.device p with state := .absent } ∧ (t.waited p).isSome = true)
      ∧ (∀ p, (stationOf p ≠ st ∨ (s.device p).state ≠ .unpowered) → t.device p = s.device p)
      ∧ (∀ y, y ≠ st → t.supply y = u.supply y) ∧ t.sessions = s.sessions ∧ t.counter = s.counter ∧ SameStore s t)
  ∧ (∀ (s u : State) (st : Station) (d : Tick) (rest : List Entry), (s.supply st).state = .on →
    s.deadlines = ⟨.supply st, .supply, d⟩ :: rest → s.reach d = some u →
    ∃ t, exec (.supplyCleanPeriod st) s = .next t ∧ t.tick = s.tickAt d
      ∧ t.supply st = { u.supply st with tripCount := 0 } ∧ t.deadlines = rest
      ∧ ((s.supply st).tripCount ≠ 0 → (∀ x ∈ s.outbound, x.key ≠ some (.supplyChange st)) →
        t.shows (.supplyChange st .on .on .clean 0 ((u.supply st).lastSample.map fun c => 2 * c.toNat) 1))
      ∧ (∀ y, y ≠ st → t.supply y = u.supply y) ∧ t.sessions = s.sessions ∧ t.devices = s.devices
      ∧ t.counter = s.counter ∧ SameStore s t)

/-! ### Deadlines -/

/-- The due test across the wrap (R95): an entry is due when (now - deadline) modulo 2^32 is less than 2^31. One
placed 1..600,000 ticks ahead is not due until the counter reaches its deadline, is due there and for the next 2^31 -
1 ticks, and is due exactly where its distance is 0; one placed 0 ticks ahead is due from its placing. -/
def Obligations.DueTestAcrossTheWrap : Prop :=
  (∀ now deadline : Tick,
    isDue now deadline = true ↔ (now.toNat + 4294967296 - deadline.toNat) % 4294967296 < 2147483648)
  ∧ ∀ (now : Tick) (d : Nat), d ≤ 600000 →
    (∀ k, k < d → (ahead now k - ahead now d).toNat = 4294967296 - (d - k)
      ∧ isDue (ahead now k) (ahead now d) = false ∧ distance (ahead now k) (ahead now d) = d - k)
    ∧ (∀ j, j < 2147483648 → isDue (ahead (ahead now d) j) (ahead now d) = true)
    ∧ (∀ k, k ≤ d → (isDue (ahead now k) (ahead now d) = true ↔ distance (ahead now k) (ahead now d) = 0))

/-- A STEP deadline that falls due ends the session TIMED-OUT, or ends a SHOW step with success (R97, R18, R19). The
clock stands at the instant named, by the model's choice (log 1). -/
def Obligations.StepDeadlineFallsDue : Prop :=
  ∀ (s u : State) (st : Station) (x : StepRecord) (d : Tick) (rest : List Entry),
    (s.session st).state = .running →
    ((s.session st).phase = some .waitingClear ∨ (s.session st).phase = some .active) →
    (s.session st).step? = some x → s.deadlines = ⟨.session st, .step, d⟩ :: rest → s.reach d = some u →
    ∃ t, exec (.stepDeadline st) s = .next t ∧ t.tick = s.tickAt d
      ∧ (x.kind.isShow = false → Ends (s.session st) (t.session st) .timedOut)
      ∧ (x.kind.isShow = true → (t.session st).state = .running ∧ (t.session st).phase = some .delivering
        ∧ (s.outstanding st = false → ∀ tag i, (s.session st).tag = some tag → (s.session st).index = some i →
            t.shows (.stepResult ⟨st, tag, i, .showOk⟩)))
      ∧ (∀ k, k = .step ∨ k = .warn ∨ k = .key → t.deadlineOf (.session st) k = none)
      ∧ (∀ y, y ≠ st → t.session y = s.session y) ∧ (∀ y, t.supply y = u.supply y)
      ∧ (∀ p, stationOf p ≠ st → t.device p = s.device p) ∧ t.counter = s.counter ∧ SameStore s t

/-- A WARN deadline warns the step, and a KEY deadline ends the session TIMED-OUT (R102, R41). The clock stands at the
instant named, by the model's choice (log 1). -/
def Obligations.WarnAndKeyDeadlinesFallDue : Prop :=
  ∀ (s u : State) (st : Station) (d : Tick) (rest : List Entry), s.reach d = some u → (s.session st).state = .running →
    ((s.session st).phase = some .waitingClear ∨ (s.session st).phase = some .active) →
    (s.deadlines = ⟨.session st, .warn, d⟩ :: rest →
      ∃ t, exec (.warnDeadline st) s = .next t ∧ t.tick = s.tickAt d ∧ t.deadlines = rest
        ∧ t.session st = { s.session st with warned := true }
        ∧ ((s.device (keypadOf st)).state = .engaged → (s.device (keypadOf st)).queue = [] →
          ((t.device (keypadOf st)).queue.map (·.command)) = [.beep .warn])
        ∧ (∀ y, y ≠ st → t.session y = s.session y) ∧ (∀ p, p ≠ keypadOf st → t.device p = s.device p)
        ∧ t.supplies = u.supplies ∧ t.counter = s.counter ∧ SameStore s t)
    ∧ (s.deadlines = ⟨.session st, .key, d⟩ :: rest →
      ∃ t, exec (.keyDeadline st) s = .next t ∧ t.tick = s.tickAt d
        ∧ Ends (s.session st) (t.session st) .timedOut
        ∧ (∀ k, k = .step ∨ k = .warn ∨ k = .key → t.deadlineOf (.session st) k = none)
        ∧ (∀ y, y ≠ st → t.session y = s.session y) ∧ (∀ y, t.supply y = u.supply y) ∧ t.counter = s.counter
        ∧ SameStore s t)

/-- The restart window of a RESTARTING device counts another restart or sets the device aside (R114); the clean period
of a joined device sets its restart count to 0 (R116). The clock stands at the instant named, by the model's choice
(log 1). -/
def Obligations.DeviceDeadlineFallsDue : Prop :=
  ∀ (s u : State) (p : Port) (d : Tick) (rest : List Entry), s.deadlines = ⟨.device p, .device, d⟩ :: rest →
    s.reach d = some u →
    ((s.device p).state = .restarting → (s.device p).restartCount < s.settings.restartLimit →
      ∃ t, exec (.restartWindow p) s = .next t ∧ t.tick = s.tickAt d
        ∧ t.device p = { s.device p with restartCount := (s.device p).restartCount + 1 }
        ∧ t.owes p = some .resetDevice ∧ (t.waited p).isSome = true
        ∧ t.deadlineOf (.device p) .device = some (ahead (s.tickAt d) 3000)
        ∧ (∀ y, y ≠ p → t.device y = s.device y) ∧ t.sessions = s.sessions ∧ t.supplies = u.supplies
        ∧ t.counter = s.counter ∧ SameStore s t)
    ∧ ((s.device p).state = .restarting → s.settings.restartLimit ≤ (s.device p).restartCount →
      ∃ t, exec (.restartWindow p) s = .next t ∧ t.tick = s.tickAt d
        ∧ t.device p = { s.device p with state := .held, heldReason := some .restartLimit }
        ∧ t.due p = none ∧ t.owes p = none ∧ t.deadlines = rest
        ∧ (∀ y, y ≠ p → t.device y = s.device y) ∧ t.sessions = s.sessions ∧ t.supplies = u.supplies
        ∧ t.counter = s.counter ∧ SameStore s t)
    ∧ (((s.device p).state = .ready ∨ (s.device p).state = .engaged ∨ (s.device p).state = .dozing) →
      ∃ t, exec (.deviceCleanPeriod p) s = .next t ∧ t.tick = s.tickAt d ∧ t.deadlines = rest
        ∧ t.device p = { s.device p with restartCount := 0 }
        ∧ (∀ y, y ≠ p → t.device y = s.device y) ∧ t.sessions = s.sessions ∧ t.supplies = u.supplies
        ∧ t.counter = s.counter ∧ SameStore s t)

/-- Supervision that expires takes the counter to ORPHANED and ends every RUNNING session WORKSTATION-LOST (R167), one
that delivers a refused card among them (the model's choice, log 29). No station is owed the idle text any more; one
that was, with its keypad still ENGAGED, is owed the closed text (R180 row 7, log 27). The clock stands at the instant
named, by the model's choice (log 1). -/
def Obligations.SupervisionExpires : Prop :=
  ∀ (s u : State) (d : Tick) (rest : List Entry),
    (s.counter = .starting ∨ s.counter = .opened ∨ s.counter = .waking) →
    s.deadlines = ⟨.counter, .supervision, d⟩ :: rest → s.reach d = some u →
    ∃ t, exec .supervisionExpired s = .next t ∧ t.tick = s.tickAt d ∧ t.counter = .orphaned
      ∧ t.deadlineOf .counter .settle = none ∧ t.awaiting = Vector.replicate 16 false
      ∧ (∀ st : Station, t.textOwed[st.val] =
          if s.textOwed[st.val] = some .idle ∧ (s.device (keypadOf st)).state = .engaged then some .closed else none)
      ∧ (∀ st, (s.session st).state = .running → Ends (s.session st) (t.session st) .workstationLost)
      ∧ (∀ st, (s.session st).state ≠ .running → t.session st = s.session st)
      ∧ t.supplies = u.supplies ∧ t.wakeCause = s.wakeCause ∧ SameStore s t

/-- The SETTLE entry opens the counter: from WAKING with reason SETTLED (R171), from STARTING as the cap (R165). The
clock stands at the instant named, by the model's choice (log 1). -/
def Obligations.SettleEntryOpensTheCounter : Prop :=
  ∀ (s u : State) (d : Tick) (rest : List Entry), s.deadlines = ⟨.counter, .settle, d⟩ :: rest →
    s.reach d = some u →
    (s.counter = .waking →
      ∃ t, exec .settled s = .next t ∧ t.tick = s.tickAt d ∧ t.counter = .opened ∧ t.deadlines = rest
        ∧ t.awaiting = s.awaiting
        ∧ ((∀ x ∈ s.outbound, x.key ≠ some .counterChange) →
          t.shows (.counterChange .waking .opened .settled s.wakeCause 1))
        ∧ t.sessions = s.sessions ∧ t.devices = s.devices ∧ t.supplies = u.supplies ∧ SameStore s t)
    ∧ (s.counter = .starting →
      ∃ t, exec .startCap s = .next t ∧ t.tick = s.tickAt d ∧ t.counter = .opened
        ∧ t.awaiting = Vector.replicate 16 false
        ∧ ((∀ x ∈ s.outbound, x.key ≠ some .counterChange) →
          t.shows (.counterChange .starting .opened .startCap none 1))
        ∧ (∀ o k, o ≠ .counter ∨ k ≠ .settle →
          t.deadlineOf o k = (rest.find? fun e => e.isFor o k).map (·.deadline))
        ∧ t.sessions = s.sessions ∧ t.devices = s.devices ∧ t.supplies = u.supplies ∧ SameStore s t)

/-! ### The counter bus -/

/-- With the bus free and no direct exchange pending, the arbiter begins the exchange of a due device: an ENGAGED one
before any other, the one that became due first, the lowest address of two that became due together; its request is
the one its state calls for, and a POLL carries the head of its queue (R132, R133, R144). Which of two devices that
fell due at one tick goes first is the model's choice (log 17). -/
def Obligations.ArbiterCarriesTheDeviceDueFirst : Prop :=
  ∀ (s : State), s.flight = none → s.pendingDirect = none →
    (∃ p, (s.waited p).isSome = true ∧ (s.device p).state.addressed = true) →
    ∃ t f, exec .busArbitrate s = .next t ∧ t.flight = some f
      ∧ (∃ w, s.waited f.port = some w
        ∧ ∀ y v, (s.device y).state.addressed = true → s.waited y = some v →
          ((s.device y).state = .engaged ↔ (s.device f.port).state = .engaged) → v < w ∨ (v = w ∧ f.port ≤ y))
      ∧ ((∃ y, (s.waited y).isSome = true ∧ (s.device y).state = .engaged) → (s.device f.port).state = .engaged)
      ∧ s.requestFor f.port = some f.request ∧ f.direct = none
      ∧ f.carried.map Prod.fst =
          (if f.request = .poll then (s.device f.port).queue.head?.map (·.command) else none)
      ∧ f.doze = (f.request == .configure && s.counter == .lull)
      ∧ t.due f.port = none ∧ (∀ y, y ≠ f.port → t.due y = s.due y)
      ∧ (f.carried.isSome = true → (t.device f.port).inCarriage = true)
      ∧ (∀ y, y ≠ f.port → t.device y = s.device y) ∧ (f.request = .resetDevice → t.owes f.port = none)
      ∧ t.sessions = s.sessions ∧ t.supplies = s.supplies ∧ t.counter = s.counter ∧ t.tick = s.tick ∧ SameStore s t

/-- The pending direct exchange goes first: a DIAG is carried, or the exchange is withdrawn with UNAVAILABLE (R144,
R146). After a withdrawal the arbiter chooses on in the same event, by the model's choice (log 18). -/
def Obligations.DirectExchangeGoesFirst : Prop :=
  ∀ (s : State) (x : Direct), s.flight = none → s.pendingDirect = some x →
    (((s.device x.port).state = .joining ∨ (s.device x.port).state = .ready ∨ (s.device x.port).state = .dozing
        ∨ (s.device x.port).state = .restarting) →
      ∃ t, exec .busArbitrate s = .next t ∧ t.pendingDirect = none
        ∧ t.flight = some ⟨x.port, .diag, none, false, some x.sequence,
            requestFrame x.port .diag (s.device x.port).batchToggle (s.device x.port).commandToggle x.payload⟩
        ∧ t.devices = s.devices ∧ t.owed = s.owed ∧ t.sessions = s.sessions ∧ t.supplies = s.supplies
        ∧ t.counter = s.counter ∧ t.tick = s.tick ∧ SameStore s t)
    ∧ (((s.device x.port).state = .held ∨ (s.device x.port).state = .unpowered ∨ (s.device x.port).state = .absent) →
      ∃ t, exec .busArbitrate s = .next t ∧ t.pendingDirect = none
        ∧ t.shows (.reply x.sequence 0x8B .unavailable false []) ∧ t.flight.all (fun f => f.direct.isNone) = true
        ∧ t.sessions = s.sessions ∧ t.supplies = s.supplies ∧ t.counter = s.counter ∧ t.tick = s.tick
        ∧ SameStore s t)

/-- The end of a RESET-DEVICE request, what a miss does by the device's state, and an answer frame that is not good as
a miss (R111, R113, R114, R134, R136, R142, R193; log 24 for an undefined event in a PROBE or CONFIGURE answer). -/
def Obligations.ExchangesEndWithoutAnAnswer : Prop :=
  (∀ (s : State) (f : Flight), s.flight = some f → f.request = .resetDevice →
    exec .resetDeviceSent s = .next (({ s with flight := none }.dueAfterExchange f.port).beginNext)
    ∧ ((s.device f.port).state = .restarting → s.waited f.port = none →
      ({ s with flight := none }.dueAfterExchange f.port).due f.port = some (.next (ahead s.tick 100))))
  ∧ (∀ (s : State) (f : Flight), s.flight = some f → f.request ≠ .resetDevice →
    let d := s.device f.port
    ∃ t, exec .exchangeMiss s = .next t ∧ t.flight = none
      ∧ ((d.state = .absent ∨ d.state = .restarting ∨ d.state = .held ∨ d.state = .unpowered) →
        t.device f.port = d)
      ∧ (d.state = .joining → t.device f.port = { d with state := .absent, identity := none, status := none })
      ∧ ((d.state = .ready ∨ d.state = .engaged ∨ d.state = .dozing) → d.missRun < 2 →
        t.device f.port = { d with missRun := d.missRun + 1 })
      ∧ ((d.state = .ready ∨ d.state = .engaged ∨ d.state = .dozing) → 2 ≤ d.missRun →
        (t.device f.port).missRun = 0 ∧ (t.device f.port).lastFault = some .misses
        ∧ (t.device f.port).queue = [] ∧ (t.device f.port).follower = none
        ∧ (d.restartCount < s.settings.restartLimit → (t.device f.port).state = .restarting
          ∧ (t.device f.port).restartCount = d.restartCount + 1 ∧ t.owes f.port = some .resetDevice
          ∧ t.deadlineOf (.device f.port) .device = some (ahead s.tick 3000))
        ∧ (s.settings.restartLimit ≤ d.restartCount → (t.device f.port).state = .held
          ∧ (t.device f.port).heldReason = some .restartLimit))
      ∧ (∀ y, y ≠ stationOf f.port → t.session y = s.session y) ∧ t.supplies = s.supplies ∧ t.tick = s.tick
      ∧ SameStore s t)
  ∧ (∀ (s : State) (f : Flight) (frame : List Byte), s.flight = some f → answerOf f.port f.request frame = none →
    (f.request = .probe → exec (.probeAnswer frame) s = exec .exchangeMiss s)
    ∧ (f.request = .identify → exec (.identifyAnswer frame) s = exec .exchangeMiss s)
    ∧ (f.request = .configure → exec (.configureAnswer frame) s = exec .exchangeMiss s)
    ∧ (f.request = .poll → exec (.pollAnswer frame) s = exec .exchangeMiss s)
    ∧ (f.request = .diag → exec (.diagAnswer frame) s = exec .exchangeMiss s))

/-- A probe answered sends an ABSENT or RESTARTING device to JOINING, with its IDENTIFY owed and due (R108, R115); in
LULL a join from ABSENT that the wake mask admits wakes the counter (R170). With a settle time of 0 WAKING and OPEN
fall in one row (log 6). An undefined event in the answer is judged as in a POLL answer (log 24). -/
def Obligations.ProbeAnswerJoinsTheDevice : Prop :=
  ∀ (s : State) (f : Flight) (frame : List Byte) (a : Answer), s.flight = some f → f.request = .probe →
    answerOf f.port .probe frame = some a →
    ((s.device f.port).state = .absent ∨ (s.device f.port).state = .restarting) →
    ∃ t, exec (.probeAnswer frame) s = .next t ∧ t.flight = none
      ∧ t.device f.port = { s.device f.port with state := .joining, missRun := 0, status := some a.status }
      ∧ t.owes f.port = some .identify ∧ (t.waited f.port).isSome = true ∧ t.awaiting[f.port.val] = false
      ∧ ((s.device f.port).state = .restarting → t.deadlineOf (.device f.port) .device = none)
      ∧ (s.counter = .lull → (s.device f.port).state = .absent → (s.wakeMask[(stationOf f.port).val]).join = true →
        t.wakeCause = some ⟨.deviceJoin, some (stationOf f.port)⟩
          ∧ t.counter = if s.settleTicks = 0 then .opened else .waking)
      ∧ (s.counter = .lull →
        ((s.device f.port).state = .restarting ∨ (s.wakeMask[(stationOf f.port).val]).join = false) →
        t.counter = .lull ∧ ∀ y, y ≠ f.port → t.device y = s.device y)
      ∧ (s.counter ≠ .lull → s.counter ≠ .starting → t.counter = s.counter)
      ∧ t.sessions = s.sessions ∧ t.supplies = s.supplies ∧ t.tick = s.tick ∧ SameStore s t

/-- An IDENTIFY answered by a device of the expected kind leads to CONFIGURE, and by the other kind to HELD (R109,
R117). -/
def Obligations.IdentifyAnswerIsJudged : Prop :=
  ∀ (s : State) (f : Flight) (frame : List Byte) (a : Answer) (i : Identity), s.flight = some f →
    f.request = .identify → answerOf f.port .identify frame = some a → a.contents = .identity i →
    (s.device f.port).state = .joining →
    let stored := if i.kind = 1 then { i with concealed := false } else i
    ∃ t, exec (.identifyAnswer frame) s = .next t ∧ t.flight = none
      ∧ (i.kind = (kindOf f.port).code →
        t.device f.port = { s.device f.port with status := some a.status, identity := some stored }
          ∧ t.owes f.port = some .configure ∧ (t.waited f.port).isSome = true)
      ∧ (i.kind ≠ (kindOf f.port).code →
        t.device f.port = { s.device f.port with
            status := some a.status, identity := some stored, state := .held, heldReason := some .wrongKind }
          ∧ t.owes f.port = none ∧ t.due f.port = none)
      ∧ (∀ y, y ≠ f.port → t.device y = s.device y) ∧ t.sessions = s.sessions ∧ t.supplies = s.supplies
      ∧ t.deadlines = s.deadlines ∧ t.counter = s.counter ∧ t.tick = s.tick ∧ SameStore s t

/-- A CONFIGURE answered completes joining: READY or DOZING, toggles 0, the clean period placed, and a keypad's text
queued, with the power command that the counter calls for behind it (R110, R116). An undefined event in the answer is
judged as in a POLL answer (log 24). -/
def Obligations.ConfigureAnswerCompletesJoining : Prop :=
  ∀ (s : State) (f : Flight) (frame : List Byte) (a : Answer), s.flight = some f → f.request = .configure →
    answerOf f.port .configure frame = some a → (s.device f.port).state = .joining →
    s.owes f.port = some .configure → (s.device f.port).queue = [] → (s.device f.port).follower = none →
    (s.device f.port).inCarriage = false →
    let text := if s.counter = .orphaned then s.closedText else s.idleTexts[(stationOf f.port).val]
    let shown := if kindOf f.port = .keypad then [DeviceCommand.showText text] else []
    let power := if f.doze = true ∧ s.counter ≠ .lull then [DeviceCommand.wake]
      else if f.doze = false ∧ s.counter = .lull then [.doze] else []
    ∃ t, exec (.configureAnswer frame) s = .next t ∧ t.flight = none
      ∧ (t.device f.port).state = (if f.doze then .dozing else .ready)
      ∧ (t.device f.port).batchToggle = false ∧ (t.device f.port).commandToggle = false
      ∧ (t.device f.port).missRun = 0 ∧ (t.device f.port).status = some a.status
      ∧ (t.device f.port).restartCount = (s.device f.port).restartCount
      ∧ (t.device f.port).queue.map (·.command) = shown ++ power
      ∧ t.deadlineOf (.device f.port) .device = some (ahead s.tick 600000)
      ∧ (∀ y, y ≠ f.port → t.device y = s.device y) ∧ t.sessions = s.sessions ∧ t.supplies = s.supplies
      ∧ t.counter = s.counter ∧ t.tick = s.tick ∧ SameStore s t

/-- A good POLL answer with no event and no command: the status is recorded, the miss run is 0, the batch toggle
equals the answer's, and the device is due again after the interval of its state, or at once with more events (R107,
R111, R138, R139, R142). -/
def Obligations.QuietPollRecordsTheStatus : Prop :=
  ∀ (s : State) (f : Flight) (frame : List Byte) (a : Answer), s.flight = some f → f.request = .poll →
    f.carried = none → answerOf f.port .poll frame = some a → a.contents = .events [] →
    let d := s.device f.port
    (d.state = .ready ∨ d.state = .engaged ∨ d.state = .dozing) → d.dozeDisagrees a.status = false →
    (s.session (stationOf f.port)).phase ≠ some .waitingClear →
    ∃ t, exec (.pollAnswer frame) s = .next t ∧ t.flight = none
      ∧ t.device f.port = { d with status := some a.status, missRun := 0, batchToggle := a.batch }
      ∧ (a.more = true → (t.waited f.port).isSome = true)
      ∧ (a.more = false → s.waited f.port = none →
        t.due f.port = some (.next (ahead s.tick
          (if d.state = .engaged then 20 else if d.state = .ready then 200 else 1000))))
      ∧ (∀ y, y ≠ f.port → t.device y = s.device y) ∧ t.sessions = s.sessions ∧ t.supplies = s.supplies
      ∧ t.deadlines = s.deadlines ∧ t.counter = s.counter ∧ t.tick = s.tick ∧ SameStore s t

/-- A POLL that carried a command: command taken yes removes it, turns the command toggle and brings the follower to
the head (R124, R140); DOZE takes a READY device to DOZING and WAKE a DOZING one to READY (R121). A session that waits
on the command is told, and goes on when it was the last (R10, R21). A keypad handed back by a session that so returns
to IDLE gets the text its station is owed (R168, R180 row 7, log 27). Command taken no is a fault of the device (R113,
R141). -/
def Obligations.CarriedCommandIsConfirmedOrFaults : Prop :=
  ∀ (s : State) (f : Flight) (frame : List Byte) (a : Answer) (q : Queued) (rest : List Queued),
    s.flight = some f → f.request = .poll → f.carried.isSome = true → answerOf f.port .poll frame = some a →
    a.contents = .events [] →
    let d := s.device f.port
    let after := if q.command = .doze ∧ d.state = .ready then PortState.dozing
      else if q.command = .wake ∧ d.state = .dozing then .ready else d.state
    let d' : Device := { d with
      state := after, status := some a.status, missRun := 0, batchToggle := a.batch, queue := d.follower.toList ++ rest
      follower := none, inCarriage := false, commandToggle := !d.commandToggle }
    let waits := fun st => (s.session st).waits.filter fun w => !(w.port == f.port && w.cls == q.command.cls)
    let told := fun st purpose => q.requester = .session st (s.session st).serial purpose
      ∧ ((purpose = .setup ∧ (s.session st).state = .running ∧ (s.session st).phase = some .starting)
        ∨ (purpose = .windDown ∧ (s.session st).state = .ending))
    (d.state = .ready ∨ d.state = .engaged ∨ d.state = .dozing) → d.inCarriage = true → d.queue = q :: rest →
    (a.taken = true → d'.dozeDisagrees a.status = false →
      ∃ t, exec (.pollAnswer frame) s = .next t ∧ t.flight = none
        ∧ ((∀ st purpose, ¬told st purpose) → t.device f.port = d' ∧ (∀ y, y ≠ f.port → t.device y = s.device y)
          ∧ ((s.session (stationOf f.port)).phase ≠ some .waitingClear → t.sessions = s.sessions)
          ∧ (after ≠ d.state → (∀ x ∈ s.outbound, x.key ≠ some (.deviceChange f.port)) →
            t.shows (.deviceChange f.port d.state after (if after = .dozing then .dozed else .woken) 1)))
        ∧ (∀ st purpose, told st purpose →
          (waits st ≠ [] → t.session st = { s.session st with waits := waits st } ∧ t.device f.port = d')
          ∧ (waits st = [] → purpose = .setup → (s.session st).step? ≠ none → t.device f.port = d'
            ∧ ((t.session st).phase = some .waitingClear ∨ (t.session st).phase = some .active))
          ∧ (waits st = [] → purpose = .windDown → (s.session st).pendingResult = none → s.outstanding st = false →
            (t.session st).state = .idle ∧ (t.session st).lastTag = (s.session st).tag
              ∧ (t.session st).lastCause = (s.session st).endCause
              ∧ ∀ tag c, (s.session st).tag = some tag → (s.session st).endCause = some c →
                t.shows (.sessionEnd st tag c))
          ∧ (waits st = [] → purpose = .windDown → (s.session st).pendingResult = none → s.outstanding st = false →
            (s.device (keypadOf st)).state = .engaged →
            t.textOwed[st.val] = none
              ∧ (s.counter = .opened → s.textOwed[st.val] = some .idle →
                t.awaitsText (keypadOf st) s.idleTexts[st.val])
              ∧ (s.counter = .orphaned → s.textOwed[st.val] = some .closed →
                t.awaitsText (keypadOf st) s.closedText))
          ∧ (∀ y, y ≠ st → y ≠ stationOf f.port → t.session y = s.session y))
        ∧ t.supplies = s.supplies ∧ t.counter = s.counter ∧ t.tick = s.tick ∧ SameStore s t)
    ∧ (a.taken = false →
      ∃ t, exec (.pollAnswer frame) s = .next t ∧ t.flight = none
        ∧ (t.device f.port).lastFault = some .protocol ∧ (t.device f.port).queue = []
        ∧ (t.device f.port).follower = none ∧ (t.device f.port).missRun = 0
        ∧ (t.device f.port).commandToggle = d.commandToggle
        ∧ (d.restartCount < s.settings.restartLimit → (t.device f.port).state = .restarting
          ∧ (t.device f.port).restartCount = d.restartCount + 1 ∧ t.owes f.port = some .resetDevice)
        ∧ (s.settings.restartLimit ≤ d.restartCount → (t.device f.port).state = .held)
        ∧ (∀ y, y ≠ stationOf f.port → t.session y = s.session y) ∧ t.supplies = s.supplies ∧ t.tick = s.tick
        ∧ SameStore s t)

/-- The taking of a step's last setup command ends STARTING: a CARD step with no prompt waits for the slot to clear,
or becomes ACTIVE, with its STEP deadline placed (R9, R10, R140). -/
def Obligations.LastSetupCommandEndsStarting : Prop :=
  ∀ (s : State) (f : Flight) (frame : List Byte) (a : Answer) (st : Station) (attempts time serial : Nat)
    (rest : List Queued),
    s.flight = some f → f.port = readerOf st → f.request = .poll → f.carried.isSome = true →
    answerOf f.port .poll frame = some a → a.contents = .events [] → a.taken = true → a.status.awake = true →
    (s.device (readerOf st)).state = .engaged → (s.device (readerOf st)).inCarriage = true →
    (s.device (readerOf st)).queue = ⟨.intakeOn, .session st serial .setup⟩ :: rest →
    (s.session st).serial = serial → (s.session st).state = .running → (s.session st).phase = some .starting →
    (s.session st).step? = some ⟨[], .card attempts time⟩ → (s.session st).waits = [⟨readerOf st, .intake⟩] →
    ∃ t, exec (.pollAnswer frame) s = .next t
      ∧ t.session st = { s.session st with
          waits := [], phase := some (if a.status.cardPresent then .waitingClear else .active) }
      ∧ t.deadlineOf (.session st) .step = some (ahead s.tick (time * 100))
      ∧ (s.settings.warnLead ≠ 0 → s.settings.warnLead < time →
        t.deadlineOf (.session st) .warn = some (ahead s.tick ((time - s.settings.warnLead) * 100)))
      ∧ t.deadlineOf (.session st) .key = s.deadlineOf (.session st) .key
      ∧ (∀ y, y ≠ st → t.session y = s.session y) ∧ t.supplies = s.supplies ∧ t.counter = s.counter
      ∧ t.tick = s.tick ∧ SameStore s t

/-- Keys in a new batch: a digit in ACTIVE of a plain entry is appended and re-times the KEY deadline, or is refused
at the maximum (R34, R40); CALL at a keypad in no session, with the counter OPEN or ORPHANED, places or counts up the
STATION-CALL (R53, R54). -/
def Obligations.KeysAreTakenByPhase : Prop :=
  ∀ (s : State) (f : Flight) (frame : List Byte) (a : Answer) (st : Station), s.flight = some f →
    f.port = keypadOf st → f.request = .poll → f.carried = none → answerOf f.port .poll frame = some a →
    let d := s.device f.port
    a.batch ≠ d.batchToggle →
    (∀ n prompt lo hi bounds first inter time, a.contents = .events [.key (.digit n)] → d.state = .engaged →
      a.status.awake = true → (s.session st).state = .running → (s.session st).phase = some .active →
      (s.session st).step? = some ⟨prompt, .entry .plain lo hi bounds first inter time⟩ →
      ∃ t, exec (.pollAnswer frame) s = .next t
        ∧ ((s.session st).entryBuffer.length < hi →
          t.session st = { s.session st with
              entryBuffer := (s.session st).entryBuffer ++ [n], firstKeyTaken := true }
            ∧ t.deadlineOf (.session st) .key = (if inter = 0 then none else some (ahead s.tick (inter * 100))))
        ∧ (hi ≤ (s.session st).entryBuffer.length →
          t.session st = s.session st ∧ t.deadlineOf (.session st) .key = s.deadlineOf (.session st) .key)
        ∧ t.deadlineOf (.session st) .step = s.deadlineOf (.session st) .step
        ∧ (∀ y, y ≠ st → t.session y = s.session y) ∧ t.supplies = s.supplies ∧ t.counter = s.counter
        ∧ t.tick = s.tick ∧ SameStore s t)
    ∧ (a.contents = .events [.key .call] → (d.state = .ready ∨ d.state = .dozing) →
      d.dozeDisagrees a.status = false → (s.counter = .opened ∨ s.counter = .orphaned) →
      (s.session st).phase ≠ some .waitingClear →
      ∃ t, exec (.pollAnswer frame) s = .next t
        ∧ ((∀ x ∈ s.outbound, x.key ≠ some (.stationCall st)) → t.shows (.stationCall st 1))
        ∧ (∀ n, s.coalescedQueue → .stationCall st n ∈ s.outbound →
          t.shows (.stationCall st (if n < 255 then n + 1 else 255)))
        ∧ t.sessions = s.sessions ∧ t.supplies = s.supplies ∧ t.counter = s.counter ∧ t.tick = s.tick
        ∧ SameStore s t)

/-- A card judged in ACTIVE: intake is turned off and the step delivers, an accepted card with its record and policy
copy stored (R59, R63, R76, R77), a refused one with its reason (R64, R17). -/
def Obligations.JudgedCardDelivers : Prop :=
  ∀ (s : State) (f : Flight) (frame : List Byte) (a : Answer) (st : Station) (attempts time tag i : Nat) (prompt : Text)
    (chars : List Nat) (check : Nat), s.flight = some f →
    f.port = readerOf st → f.request = .poll → f.carried = none → answerOf f.port .poll frame = some a →
    a.contents = .events [.track chars check] → a.batch ≠ (s.device f.port).batchToggle → a.status.awake = true →
    (s.device f.port).state = .engaged → (s.session st).state = .running → (s.session st).phase = some .active →
    (s.session st).step? = some ⟨prompt, .card attempts time⟩ → (s.session st).retryWait = false →
    (s.session st).tag = some tag → (s.session st).index = some i →
    let judged := evaluate s.policy s.defaultPolicy s.businessMonth chars check
    judged ≠ .readError →
    ∃ t, exec (.pollAnswer frame) s = .next t
      ∧ (t.session st).phase = some .delivering ∧ (t.session st).readerIntake = false
      ∧ (∀ card e, judged = .accepted card e →
        (t.session st).cardRecord = some card ∧ (t.session st).policyCopy = some e
        ∧ (t.session st).cardRefused = (s.session st).cardRefused
        ∧ (s.outstanding st = false → t.shows (.stepResult ⟨st, tag, i, .cardOk card e.key⟩))
        ∧ (s.outstanding st = true → (t.session st).pendingResult = some ⟨st, tag, i, .cardOk card e.key⟩))
      ∧ (∀ reason, judged = .refused reason →
        (t.session st).cardRefused = true ∧ (t.session st).cardRecord = (s.session st).cardRecord
        ∧ (t.session st).policyCopy = (s.session st).policyCopy
        ∧ (s.outstanding st = false → t.shows (.stepResult ⟨st, tag, i, .cardRefused reason⟩))
        ∧ (s.outstanding st = true → (t.session st).pendingResult = some ⟨st, tag, i, .cardRefused reason⟩))
      ∧ (∀ k, k = .step ∨ k = .warn ∨ k = .key → t.deadlineOf (.session st) k = none)
      ∧ (∀ y, y ≠ st → t.session y = s.session y) ∧ t.supplies = s.supplies ∧ t.counter = s.counter
      ∧ t.tick = s.tick ∧ SameStore s t

/-- A SEALED report in a running concealed entry: within the bounds the step delivers its block (R45, R47), outside
them the keypad is at fault and the session is lost (R48, R113, R24). -/
def Obligations.SealedBlockDeliversOrFaults : Prop :=
  ∀ (s : State) (f : Flight) (frame : List Byte) (a : Answer) (st : Station) (n lo hi first inter time tag i : Nat)
    (bounds : Bool) (prompt : Text) (block : List Byte), s.flight = some f →
    f.port = keypadOf st → f.request = .poll → f.carried = none → answerOf f.port .poll frame = some a →
    a.contents = .events [.sealedBlock n block] → a.batch ≠ (s.device f.port).batchToggle → a.status.awake = true →
    (s.device f.port).state = .engaged → (s.session st).state = .running →
    ((s.session st).phase = some .waitingClear ∨ (s.session st).phase = some .active) →
    (s.session st).step? = some ⟨prompt, .entry .concealed lo hi bounds first inter time⟩ →
    (s.session st).tag = some tag → (s.session st).index = some i →
    let range := (s.session st).entryBounds (.entry .concealed lo hi bounds first inter time)
    ((range.1 ≤ n ∧ n ≤ range.2) →
      ∃ t, exec (.pollAnswer frame) s = .next t
        ∧ (t.session st).phase = some .delivering ∧ (t.session st).concealedOpen = false
        ∧ (s.outstanding st = false → t.shows (.stepResult ⟨st, tag, i, .entryConcealed n block⟩))
        ∧ (s.outstanding st = true → (t.session st).sealedBlock = some ⟨n, block⟩
          ∧ (t.session st).pendingResult = some ⟨st, tag, i, .entryConcealed n block⟩)
        ∧ (∀ k, k = .step ∨ k = .warn ∨ k = .key → t.deadlineOf (.session st) k = none)
        ∧ (∀ y, y ≠ st → t.session y = s.session y) ∧ t.supplies = s.supplies ∧ t.counter = s.counter
        ∧ t.tick = s.tick ∧ SameStore s t)
    ∧ ((n < range.1 ∨ range.2 < n) →
      ∃ t, exec (.pollAnswer frame) s = .next t
        ∧ (t.device f.port).lastFault = some .protocol
        ∧ (t.device f.port).state =
            (if (s.device f.port).restartCount < s.settings.restartLimit then .restarting else .held)
        ∧ Ends (s.session st) (t.session st) .deviceLost
        ∧ (∀ y, y ≠ st → t.session y = s.session y) ∧ t.supplies = s.supplies ∧ t.counter = s.counter
        ∧ t.tick = s.tick ∧ SameStore s t)

/-- A direct exchange answered: the reply carries the payload, and the outcome acts on the device by its state (R146).
-/
def Obligations.DiagAnswerRepliesWithItsPayload : Prop :=
  ∀ (s : State) (f : Flight) (frame : List Byte) (a : Answer) (q : Byte) (l : List Byte), s.flight = some f →
    f.request = .diag → f.direct = some q → answerOf f.port .diag frame = some a → a.contents = .diag l →
    let d := s.device f.port
    ∃ t, exec (.diagAnswer frame) s = .next t ∧ t.flight = none
      ∧ t.shows (.reply q 0x8B .done false (byteOf l.length :: l))
      ∧ ((d.state = .ready ∨ d.state = .dozing) → d.dozeDisagrees a.status = false →
        t.device f.port = { d with status := some a.status, missRun := 0 })
      ∧ (d.state = .joining → t.device f.port = { d with status := some a.status } ∧ t.owes f.port = s.owes f.port)
      ∧ (d.state = .restarting → (t.device f.port).state = .joining ∧ t.owes f.port = some .identify
        ∧ t.deadlineOf (.device f.port) .device = none)
      ∧ ((d.state = .held ∨ d.state = .unpowered) → t.device f.port = d)
      ∧ (∀ y, y ≠ stationOf f.port → t.session y = s.session y) ∧ t.supplies = s.supplies ∧ t.tick = s.tick
      ∧ SameStore s t

/-! ### What every step keeps -/

/-- No step leaves two deadline entries with the same owner and kind (R93, R94). -/
def Obligations.EveryStepKeepsOneEntryEach : Prop :=
  ∀ s t : State, s.oneEntryEach → step s = .next t → t.oneEntryEach

/-- Every step keeps the policy table ordered with no prefix twice and at most 32 good entries (R79 to R82). -/
def Obligations.EveryStepKeepsThePolicyTable : Prop :=
  ∀ s t : State, s.policyGood → step s = .next t → t.policyGood

/-- Every step keeps each supply LOCKED exactly at a trip count of 3 (R152). -/
def Obligations.EveryStepKeepsLockedAtThreeTrips : Prop :=
  ∀ s t : State, s.suppliesGood → step s = .next t → t.suppliesGood

/-- Every step keeps at most eight replies standing, the one a direct exchange owes counted with them, and at most one
notice of each coalesced sort and key (R186, R189). -/
def Obligations.EveryStepKeepsTheOutboundQueue : Prop :=
  ∀ s t : State, s.repliesWithinEight → s.coalescedQueue → step s = .next t →
    t.repliesWithinEight ∧ t.coalescedQueue

/-- Every step keeps the settings in their ranges and every restart count within the limit in force (R116, R174). -/
def Obligations.EveryStepKeepsTheSettings : Prop :=
  ∀ s t : State, s.settingsGood → step s = .next t → t.settingsGood

/-- Every invariant holds right after reset. The values the pins have there are the model's choice (log 4), and no
invariant reads them. -/
def Obligations.ResetMeetsEveryInvariant : Prop :=
  State.reset.oneEntryEach ∧ State.reset.policyGood ∧ State.reset.suppliesGood ∧ State.reset.repliesWithinEight
    ∧ State.reset.coalescedQueue ∧ State.reset.settingsGood

/-! ### What only some commands do -/

/-- LOCKED is left only by SUPPLY-RESTORE and by a power-on reset (R152). -/
def Obligations.LockedIsLeftOnlyByRestoreOrPowerOn : Prop :=
  ∀ (i : Instr) (s t : State) (st : Station), (s.supply st).state = .locked → exec i s = .next t →
    (∀ q l, i ≠ .supplyRestore q l) → (∀ x, i ≠ .powerOnReset x) → (∀ x, i ≠ .resetInput x) →
    (t.supply st).state = .locked

/-- The retained store is changed by its own commands and by resets alone (R90, R176). -/
def Obligations.StoreChangesOnlyByItsCommands : Prop :=
  ∀ (i : Instr) (s t : State), exec i s = .next t →
    (match i with
      | .policyLoad .. | .policyDrop .. | .defaultPolicy .. | .setDate .. | .settings .. | .idleText ..
      | .powerOnReset _ | .resetInput _ => False
      | .frameSent => s.resetPending ≠ some .full
      | _ => True) → SameStore s t
end

