-- ==== Sys2Proof/Laws/State.lean ====
section
/-! SUPPORT. One lemma for each field under each named update of the state, all by rfl, and the reads after writes. -/

namespace Sys2Proof.Machine

variable (s : State)


/-! ### setSession -/

@[simp] theorem State.setSession_tick (st : Station) (r : Session) : (s.setSession st r).tick = s.tick := rfl
@[simp] theorem State.setSession_slotServed (st : Station) (r : Session) : (s.setSession st r).slotServed = s.slotServed := rfl
@[simp] theorem State.setSession_cts (st : Station) (r : Session) : (s.setSession st r).cts = s.cts := rfl
@[simp] theorem State.setSession_rate (st : Station) (r : Session) : (s.setSession st r).rate = s.rate := rfl
@[simp] theorem State.setSession_sense (st : Station) (r : Session) : (s.setSession st r).sense = s.sense := rfl
@[simp] theorem State.setSession_receiver (st : Station) (r : Session) : (s.setSession st r).receiver = s.receiver := rfl
@[simp] theorem State.setSession_intake (st : Station) (r : Session) : (s.setSession st r).intake = s.intake := rfl
@[simp] theorem State.setSession_pendingFlow (st : Station) (r : Session) : (s.setSession st r).pendingFlow = s.pendingFlow := rfl
@[simp] theorem State.setSession_holding (st : Station) (r : Session) : (s.setSession st r).holding = s.holding := rfl
@[simp] theorem State.setSession_outbound (st : Station) (r : Session) : (s.setSession st r).outbound = s.outbound := rfl
@[simp] theorem State.setSession_sending (st : Station) (r : Session) : (s.setSession st r).sending = s.sending := rfl
@[simp] theorem State.setSession_devices (st : Station) (r : Session) : (s.setSession st r).devices = s.devices := rfl
@[simp] theorem State.setSession_nextDue (st : Station) (r : Session) : (s.setSession st r).nextDue = s.nextDue := rfl
@[simp] theorem State.setSession_owed (st : Station) (r : Session) : (s.setSession st r).owed = s.owed := rfl
@[simp] theorem State.setSession_pendingDirect (st : Station) (r : Session) : (s.setSession st r).pendingDirect = s.pendingDirect := rfl
@[simp] theorem State.setSession_flight (st : Station) (r : Session) : (s.setSession st r).flight = s.flight := rfl
@[simp] theorem State.setSession_deadlines (st : Station) (r : Session) : (s.setSession st r).deadlines = s.deadlines := rfl
@[simp] theorem State.setSession_supplies (st : Station) (r : Session) : (s.setSession st r).supplies = s.supplies := rfl
@[simp] theorem State.setSession_counter (st : Station) (r : Session) : (s.setSession st r).counter = s.counter := rfl
@[simp] theorem State.setSession_wakeMask (st : Station) (r : Session) : (s.setSession st r).wakeMask = s.wakeMask := rfl
@[simp] theorem State.setSession_wakeCause (st : Station) (r : Session) : (s.setSession st r).wakeCause = s.wakeCause := rfl
@[simp] theorem State.setSession_awaiting (st : Station) (r : Session) : (s.setSession st r).awaiting = s.awaiting := rfl
@[simp] theorem State.setSession_textOwed (st : Station) (r : Session) : (s.setSession st r).textOwed = s.textOwed := rfl
@[simp] theorem State.setSession_resetPending (st : Station) (r : Session) : (s.setSession st r).resetPending = s.resetPending := rfl
@[simp] theorem State.setSession_settings (st : Station) (r : Session) : (s.setSession st r).settings = s.settings := rfl
@[simp] theorem State.setSession_idleTexts (st : Station) (r : Session) : (s.setSession st r).idleTexts = s.idleTexts := rfl
@[simp] theorem State.setSession_closedText (st : Station) (r : Session) : (s.setSession st r).closedText = s.closedText := rfl
@[simp] theorem State.setSession_policy (st : Station) (r : Session) : (s.setSession st r).policy = s.policy := rfl
@[simp] theorem State.setSession_defaultPolicy (st : Station) (r : Session) : (s.setSession st r).defaultPolicy = s.defaultPolicy := rfl
@[simp] theorem State.setSession_businessMonth (st : Station) (r : Session) : (s.setSession st r).businessMonth = s.businessMonth := rfl
@[simp] theorem State.setSession_pending (st : Station) (r : Session) : (s.setSession st r).pending = s.pending := rfl
@[simp] theorem State.setSession_device (st : Station) (r : Session) (x : Port) : (s.setSession st r).device x = s.device x := rfl
@[simp] theorem State.setSession_supply (st : Station) (r : Session) (x : Station) : (s.setSession st r).supply x = s.supply x := rfl
@[simp] theorem State.setSession_due (st : Station) (r : Session) (x : Port) : (s.setSession st r).due x = s.due x := rfl
@[simp] theorem State.setSession_owes (st : Station) (r : Session) (x : Port) : (s.setSession st r).owes x = s.owes x := rfl
@[simp] theorem State.setSession_idleText (st : Station) (r : Session) (x : Station) : (s.setSession st r).idleText x = s.idleText x := rfl
@[simp] theorem State.setSession_deadlineOf (st : Station) (r : Session) (o' : Owner) (k' : DeadlineKind) :
    (s.setSession st r).deadlineOf o' k' = s.deadlineOf o' k' := rfl

/-! ### setDevice -/

@[simp] theorem State.setDevice_tick (p : Port) (d : Device) : (s.setDevice p d).tick = s.tick := rfl
@[simp] theorem State.setDevice_slotServed (p : Port) (d : Device) : (s.setDevice p d).slotServed = s.slotServed := rfl
@[simp] theorem State.setDevice_cts (p : Port) (d : Device) : (s.setDevice p d).cts = s.cts := rfl
@[simp] theorem State.setDevice_rate (p : Port) (d : Device) : (s.setDevice p d).rate = s.rate := rfl
@[simp] theorem State.setDevice_sense (p : Port) (d : Device) : (s.setDevice p d).sense = s.sense := rfl
@[simp] theorem State.setDevice_receiver (p : Port) (d : Device) : (s.setDevice p d).receiver = s.receiver := rfl
@[simp] theorem State.setDevice_intake (p : Port) (d : Device) : (s.setDevice p d).intake = s.intake := rfl
@[simp] theorem State.setDevice_pendingFlow (p : Port) (d : Device) : (s.setDevice p d).pendingFlow = s.pendingFlow := rfl
@[simp] theorem State.setDevice_holding (p : Port) (d : Device) : (s.setDevice p d).holding = s.holding := rfl
@[simp] theorem State.setDevice_outbound (p : Port) (d : Device) : (s.setDevice p d).outbound = s.outbound := rfl
@[simp] theorem State.setDevice_sending (p : Port) (d : Device) : (s.setDevice p d).sending = s.sending := rfl
@[simp] theorem State.setDevice_sessions (p : Port) (d : Device) : (s.setDevice p d).sessions = s.sessions := rfl
@[simp] theorem State.setDevice_nextDue (p : Port) (d : Device) : (s.setDevice p d).nextDue = s.nextDue := rfl
@[simp] theorem State.setDevice_owed (p : Port) (d : Device) : (s.setDevice p d).owed = s.owed := rfl
@[simp] theorem State.setDevice_pendingDirect (p : Port) (d : Device) : (s.setDevice p d).pendingDirect = s.pendingDirect := rfl
@[simp] theorem State.setDevice_flight (p : Port) (d : Device) : (s.setDevice p d).flight = s.flight := rfl
@[simp] theorem State.setDevice_deadlines (p : Port) (d : Device) : (s.setDevice p d).deadlines = s.deadlines := rfl
@[simp] theorem State.setDevice_supplies (p : Port) (d : Device) : (s.setDevice p d).supplies = s.supplies := rfl
@[simp] theorem State.setDevice_counter (p : Port) (d : Device) : (s.setDevice p d).counter = s.counter := rfl
@[simp] theorem State.setDevice_wakeMask (p : Port) (d : Device) : (s.setDevice p d).wakeMask = s.wakeMask := rfl
@[simp] theorem State.setDevice_wakeCause (p : Port) (d : Device) : (s.setDevice p d).wakeCause = s.wakeCause := rfl
@[simp] theorem State.setDevice_awaiting (p : Port) (d : Device) : (s.setDevice p d).awaiting = s.awaiting := rfl
@[simp] theorem State.setDevice_textOwed (p : Port) (d : Device) : (s.setDevice p d).textOwed = s.textOwed := rfl
@[simp] theorem State.setDevice_resetPending (p : Port) (d : Device) : (s.setDevice p d).resetPending = s.resetPending := rfl
@[simp] theorem State.setDevice_settings (p : Port) (d : Device) : (s.setDevice p d).settings = s.settings := rfl
@[simp] theorem State.setDevice_idleTexts (p : Port) (d : Device) : (s.setDevice p d).idleTexts = s.idleTexts := rfl
@[simp] theorem State.setDevice_closedText (p : Port) (d : Device) : (s.setDevice p d).closedText = s.closedText := rfl
@[simp] theorem State.setDevice_policy (p : Port) (d : Device) : (s.setDevice p d).policy = s.policy := rfl
@[simp] theorem State.setDevice_defaultPolicy (p : Port) (d : Device) : (s.setDevice p d).defaultPolicy = s.defaultPolicy := rfl
@[simp] theorem State.setDevice_businessMonth (p : Port) (d : Device) : (s.setDevice p d).businessMonth = s.businessMonth := rfl
@[simp] theorem State.setDevice_pending (p : Port) (d : Device) : (s.setDevice p d).pending = s.pending := rfl
@[simp] theorem State.setDevice_session (p : Port) (d : Device) (x : Station) : (s.setDevice p d).session x = s.session x := rfl
@[simp] theorem State.setDevice_supply (p : Port) (d : Device) (x : Station) : (s.setDevice p d).supply x = s.supply x := rfl
@[simp] theorem State.setDevice_due (p : Port) (d : Device) (x : Port) : (s.setDevice p d).due x = s.due x := rfl
@[simp] theorem State.setDevice_owes (p : Port) (d : Device) (x : Port) : (s.setDevice p d).owes x = s.owes x := rfl
@[simp] theorem State.setDevice_idleText (p : Port) (d : Device) (x : Station) : (s.setDevice p d).idleText x = s.idleText x := rfl
@[simp] theorem State.setDevice_deadlineOf (p : Port) (d : Device) (o' : Owner) (k' : DeadlineKind) :
    (s.setDevice p d).deadlineOf o' k' = s.deadlineOf o' k' := rfl

/-! ### setSupply -/

@[simp] theorem State.setSupply_tick (st : Station) (r : Supply) : (s.setSupply st r).tick = s.tick := rfl
@[simp] theorem State.setSupply_slotServed (st : Station) (r : Supply) : (s.setSupply st r).slotServed = s.slotServed := rfl
@[simp] theorem State.setSupply_cts (st : Station) (r : Supply) : (s.setSupply st r).cts = s.cts := rfl
@[simp] theorem State.setSupply_rate (st : Station) (r : Supply) : (s.setSupply st r).rate = s.rate := rfl
@[simp] theorem State.setSupply_sense (st : Station) (r : Supply) : (s.setSupply st r).sense = s.sense := rfl
@[simp] theorem State.setSupply_receiver (st : Station) (r : Supply) : (s.setSupply st r).receiver = s.receiver := rfl
@[simp] theorem State.setSupply_intake (st : Station) (r : Supply) : (s.setSupply st r).intake = s.intake := rfl
@[simp] theorem State.setSupply_pendingFlow (st : Station) (r : Supply) : (s.setSupply st r).pendingFlow = s.pendingFlow := rfl
@[simp] theorem State.setSupply_holding (st : Station) (r : Supply) : (s.setSupply st r).holding = s.holding := rfl
@[simp] theorem State.setSupply_outbound (st : Station) (r : Supply) : (s.setSupply st r).outbound = s.outbound := rfl
@[simp] theorem State.setSupply_sending (st : Station) (r : Supply) : (s.setSupply st r).sending = s.sending := rfl
@[simp] theorem State.setSupply_sessions (st : Station) (r : Supply) : (s.setSupply st r).sessions = s.sessions := rfl
@[simp] theorem State.setSupply_devices (st : Station) (r : Supply) : (s.setSupply st r).devices = s.devices := rfl
@[simp] theorem State.setSupply_nextDue (st : Station) (r : Supply) : (s.setSupply st r).nextDue = s.nextDue := rfl
@[simp] theorem State.setSupply_owed (st : Station) (r : Supply) : (s.setSupply st r).owed = s.owed := rfl
@[simp] theorem State.setSupply_pendingDirect (st : Station) (r : Supply) : (s.setSupply st r).pendingDirect = s.pendingDirect := rfl
@[simp] theorem State.setSupply_flight (st : Station) (r : Supply) : (s.setSupply st r).flight = s.flight := rfl
@[simp] theorem State.setSupply_deadlines (st : Station) (r : Supply) : (s.setSupply st r).deadlines = s.deadlines := rfl
@[simp] theorem State.setSupply_counter (st : Station) (r : Supply) : (s.setSupply st r).counter = s.counter := rfl
@[simp] theorem State.setSupply_wakeMask (st : Station) (r : Supply) : (s.setSupply st r).wakeMask = s.wakeMask := rfl
@[simp] theorem State.setSupply_wakeCause (st : Station) (r : Supply) : (s.setSupply st r).wakeCause = s.wakeCause := rfl
@[simp] theorem State.setSupply_awaiting (st : Station) (r : Supply) : (s.setSupply st r).awaiting = s.awaiting := rfl
@[simp] theorem State.setSupply_textOwed (st : Station) (r : Supply) : (s.setSupply st r).textOwed = s.textOwed := rfl
@[simp] theorem State.setSupply_resetPending (st : Station) (r : Supply) : (s.setSupply st r).resetPending = s.resetPending := rfl
@[simp] theorem State.setSupply_settings (st : Station) (r : Supply) : (s.setSupply st r).settings = s.settings := rfl
@[simp] theorem State.setSupply_idleTexts (st : Station) (r : Supply) : (s.setSupply st r).idleTexts = s.idleTexts := rfl
@[simp] theorem State.setSupply_closedText (st : Station) (r : Supply) : (s.setSupply st r).closedText = s.closedText := rfl
@[simp] theorem State.setSupply_policy (st : Station) (r : Supply) : (s.setSupply st r).policy = s.policy := rfl
@[simp] theorem State.setSupply_defaultPolicy (st : Station) (r : Supply) : (s.setSupply st r).defaultPolicy = s.defaultPolicy := rfl
@[simp] theorem State.setSupply_businessMonth (st : Station) (r : Supply) : (s.setSupply st r).businessMonth = s.businessMonth := rfl
@[simp] theorem State.setSupply_pending (st : Station) (r : Supply) : (s.setSupply st r).pending = s.pending := rfl
@[simp] theorem State.setSupply_session (st : Station) (r : Supply) (x : Station) : (s.setSupply st r).session x = s.session x := rfl
@[simp] theorem State.setSupply_device (st : Station) (r : Supply) (x : Port) : (s.setSupply st r).device x = s.device x := rfl
@[simp] theorem State.setSupply_due (st : Station) (r : Supply) (x : Port) : (s.setSupply st r).due x = s.due x := rfl
@[simp] theorem State.setSupply_owes (st : Station) (r : Supply) (x : Port) : (s.setSupply st r).owes x = s.owes x := rfl
@[simp] theorem State.setSupply_idleText (st : Station) (r : Supply) (x : Station) : (s.setSupply st r).idleText x = s.idleText x := rfl
@[simp] theorem State.setSupply_deadlineOf (st : Station) (r : Supply) (o' : Owner) (k' : DeadlineKind) :
    (s.setSupply st r).deadlineOf o' k' = s.deadlineOf o' k' := rfl

/-! ### setDue -/

@[simp] theorem State.setDue_tick (p : Port) (t : Option Due) : (s.setDue p t).tick = s.tick := rfl
@[simp] theorem State.setDue_slotServed (p : Port) (t : Option Due) : (s.setDue p t).slotServed = s.slotServed := rfl
@[simp] theorem State.setDue_cts (p : Port) (t : Option Due) : (s.setDue p t).cts = s.cts := rfl
@[simp] theorem State.setDue_rate (p : Port) (t : Option Due) : (s.setDue p t).rate = s.rate := rfl
@[simp] theorem State.setDue_sense (p : Port) (t : Option Due) : (s.setDue p t).sense = s.sense := rfl
@[simp] theorem State.setDue_receiver (p : Port) (t : Option Due) : (s.setDue p t).receiver = s.receiver := rfl
@[simp] theorem State.setDue_intake (p : Port) (t : Option Due) : (s.setDue p t).intake = s.intake := rfl
@[simp] theorem State.setDue_pendingFlow (p : Port) (t : Option Due) : (s.setDue p t).pendingFlow = s.pendingFlow := rfl
@[simp] theorem State.setDue_holding (p : Port) (t : Option Due) : (s.setDue p t).holding = s.holding := rfl
@[simp] theorem State.setDue_outbound (p : Port) (t : Option Due) : (s.setDue p t).outbound = s.outbound := rfl
@[simp] theorem State.setDue_sending (p : Port) (t : Option Due) : (s.setDue p t).sending = s.sending := rfl
@[simp] theorem State.setDue_sessions (p : Port) (t : Option Due) : (s.setDue p t).sessions = s.sessions := rfl
@[simp] theorem State.setDue_devices (p : Port) (t : Option Due) : (s.setDue p t).devices = s.devices := rfl
@[simp] theorem State.setDue_owed (p : Port) (t : Option Due) : (s.setDue p t).owed = s.owed := rfl
@[simp] theorem State.setDue_pendingDirect (p : Port) (t : Option Due) : (s.setDue p t).pendingDirect = s.pendingDirect := rfl
@[simp] theorem State.setDue_flight (p : Port) (t : Option Due) : (s.setDue p t).flight = s.flight := rfl
@[simp] theorem State.setDue_deadlines (p : Port) (t : Option Due) : (s.setDue p t).deadlines = s.deadlines := rfl
@[simp] theorem State.setDue_supplies (p : Port) (t : Option Due) : (s.setDue p t).supplies = s.supplies := rfl
@[simp] theorem State.setDue_counter (p : Port) (t : Option Due) : (s.setDue p t).counter = s.counter := rfl
@[simp] theorem State.setDue_wakeMask (p : Port) (t : Option Due) : (s.setDue p t).wakeMask = s.wakeMask := rfl
@[simp] theorem State.setDue_wakeCause (p : Port) (t : Option Due) : (s.setDue p t).wakeCause = s.wakeCause := rfl
@[simp] theorem State.setDue_awaiting (p : Port) (t : Option Due) : (s.setDue p t).awaiting = s.awaiting := rfl
@[simp] theorem State.setDue_textOwed (p : Port) (t : Option Due) : (s.setDue p t).textOwed = s.textOwed := rfl
@[simp] theorem State.setDue_resetPending (p : Port) (t : Option Due) : (s.setDue p t).resetPending = s.resetPending := rfl
@[simp] theorem State.setDue_settings (p : Port) (t : Option Due) : (s.setDue p t).settings = s.settings := rfl
@[simp] theorem State.setDue_idleTexts (p : Port) (t : Option Due) : (s.setDue p t).idleTexts = s.idleTexts := rfl
@[simp] theorem State.setDue_closedText (p : Port) (t : Option Due) : (s.setDue p t).closedText = s.closedText := rfl
@[simp] theorem State.setDue_policy (p : Port) (t : Option Due) : (s.setDue p t).policy = s.policy := rfl
@[simp] theorem State.setDue_defaultPolicy (p : Port) (t : Option Due) : (s.setDue p t).defaultPolicy = s.defaultPolicy := rfl
@[simp] theorem State.setDue_businessMonth (p : Port) (t : Option Due) : (s.setDue p t).businessMonth = s.businessMonth := rfl
@[simp] theorem State.setDue_pending (p : Port) (t : Option Due) : (s.setDue p t).pending = s.pending := rfl
@[simp] theorem State.setDue_session (p : Port) (t : Option Due) (x : Station) : (s.setDue p t).session x = s.session x := rfl
@[simp] theorem State.setDue_device (p : Port) (t : Option Due) (x : Port) : (s.setDue p t).device x = s.device x := rfl
@[simp] theorem State.setDue_supply (p : Port) (t : Option Due) (x : Station) : (s.setDue p t).supply x = s.supply x := rfl
@[simp] theorem State.setDue_owes (p : Port) (t : Option Due) (x : Port) : (s.setDue p t).owes x = s.owes x := rfl
@[simp] theorem State.setDue_idleText (p : Port) (t : Option Due) (x : Station) : (s.setDue p t).idleText x = s.idleText x := rfl
@[simp] theorem State.setDue_deadlineOf (p : Port) (t : Option Due) (o' : Owner) (k' : DeadlineKind) :
    (s.setDue p t).deadlineOf o' k' = s.deadlineOf o' k' := rfl

/-! ### setOwed -/

@[simp] theorem State.setOwed_tick (p : Port) (o : Option Owed) : (s.setOwed p o).tick = s.tick := rfl
@[simp] theorem State.setOwed_slotServed (p : Port) (o : Option Owed) : (s.setOwed p o).slotServed = s.slotServed := rfl
@[simp] theorem State.setOwed_cts (p : Port) (o : Option Owed) : (s.setOwed p o).cts = s.cts := rfl
@[simp] theorem State.setOwed_rate (p : Port) (o : Option Owed) : (s.setOwed p o).rate = s.rate := rfl
@[simp] theorem State.setOwed_sense (p : Port) (o : Option Owed) : (s.setOwed p o).sense = s.sense := rfl
@[simp] theorem State.setOwed_receiver (p : Port) (o : Option Owed) : (s.setOwed p o).receiver = s.receiver := rfl
@[simp] theorem State.setOwed_intake (p : Port) (o : Option Owed) : (s.setOwed p o).intake = s.intake := rfl
@[simp] theorem State.setOwed_pendingFlow (p : Port) (o : Option Owed) : (s.setOwed p o).pendingFlow = s.pendingFlow := rfl
@[simp] theorem State.setOwed_holding (p : Port) (o : Option Owed) : (s.setOwed p o).holding = s.holding := rfl
@[simp] theorem State.setOwed_outbound (p : Port) (o : Option Owed) : (s.setOwed p o).outbound = s.outbound := rfl
@[simp] theorem State.setOwed_sending (p : Port) (o : Option Owed) : (s.setOwed p o).sending = s.sending := rfl
@[simp] theorem State.setOwed_sessions (p : Port) (o : Option Owed) : (s.setOwed p o).sessions = s.sessions := rfl
@[simp] theorem State.setOwed_devices (p : Port) (o : Option Owed) : (s.setOwed p o).devices = s.devices := rfl
@[simp] theorem State.setOwed_nextDue (p : Port) (o : Option Owed) : (s.setOwed p o).nextDue = s.nextDue := rfl
@[simp] theorem State.setOwed_pendingDirect (p : Port) (o : Option Owed) : (s.setOwed p o).pendingDirect = s.pendingDirect := rfl
@[simp] theorem State.setOwed_flight (p : Port) (o : Option Owed) : (s.setOwed p o).flight = s.flight := rfl
@[simp] theorem State.setOwed_deadlines (p : Port) (o : Option Owed) : (s.setOwed p o).deadlines = s.deadlines := rfl
@[simp] theorem State.setOwed_supplies (p : Port) (o : Option Owed) : (s.setOwed p o).supplies = s.supplies := rfl
@[simp] theorem State.setOwed_counter (p : Port) (o : Option Owed) : (s.setOwed p o).counter = s.counter := rfl
@[simp] theorem State.setOwed_wakeMask (p : Port) (o : Option Owed) : (s.setOwed p o).wakeMask = s.wakeMask := rfl
@[simp] theorem State.setOwed_wakeCause (p : Port) (o : Option Owed) : (s.setOwed p o).wakeCause = s.wakeCause := rfl
@[simp] theorem State.setOwed_awaiting (p : Port) (o : Option Owed) : (s.setOwed p o).awaiting = s.awaiting := rfl
@[simp] theorem State.setOwed_textOwed (p : Port) (o : Option Owed) : (s.setOwed p o).textOwed = s.textOwed := rfl
@[simp] theorem State.setOwed_resetPending (p : Port) (o : Option Owed) : (s.setOwed p o).resetPending = s.resetPending := rfl
@[simp] theorem State.setOwed_settings (p : Port) (o : Option Owed) : (s.setOwed p o).settings = s.settings := rfl
@[simp] theorem State.setOwed_idleTexts (p : Port) (o : Option Owed) : (s.setOwed p o).idleTexts = s.idleTexts := rfl
@[simp] theorem State.setOwed_closedText (p : Port) (o : Option Owed) : (s.setOwed p o).closedText = s.closedText := rfl
@[simp] theorem State.setOwed_policy (p : Port) (o : Option Owed) : (s.setOwed p o).policy = s.policy := rfl
@[simp] theorem State.setOwed_defaultPolicy (p : Port) (o : Option Owed) : (s.setOwed p o).defaultPolicy = s.defaultPolicy := rfl
@[simp] theorem State.setOwed_businessMonth (p : Port) (o : Option Owed) : (s.setOwed p o).businessMonth = s.businessMonth := rfl
@[simp] theorem State.setOwed_pending (p : Port) (o : Option Owed) : (s.setOwed p o).pending = s.pending := rfl
@[simp] theorem State.setOwed_session (p : Port) (o : Option Owed) (x : Station) : (s.setOwed p o).session x = s.session x := rfl
@[simp] theorem State.setOwed_device (p : Port) (o : Option Owed) (x : Port) : (s.setOwed p o).device x = s.device x := rfl
@[simp] theorem State.setOwed_supply (p : Port) (o : Option Owed) (x : Station) : (s.setOwed p o).supply x = s.supply x := rfl
@[simp] theorem State.setOwed_due (p : Port) (o : Option Owed) (x : Port) : (s.setOwed p o).due x = s.due x := rfl
@[simp] theorem State.setOwed_idleText (p : Port) (o : Option Owed) (x : Station) : (s.setOwed p o).idleText x = s.idleText x := rfl
@[simp] theorem State.setOwed_deadlineOf (p : Port) (o : Option Owed) (o' : Owner) (k' : DeadlineKind) :
    (s.setOwed p o).deadlineOf o' k' = s.deadlineOf o' k' := rfl

/-! ### removeDeadline -/

@[simp] theorem State.removeDeadline_tick (o : Owner) (k : DeadlineKind) : (s.removeDeadline o k).tick = s.tick := rfl
@[simp] theorem State.removeDeadline_slotServed (o : Owner) (k : DeadlineKind) : (s.removeDeadline o k).slotServed = s.slotServed := rfl
@[simp] theorem State.removeDeadline_cts (o : Owner) (k : DeadlineKind) : (s.removeDeadline o k).cts = s.cts := rfl
@[simp] theorem State.removeDeadline_rate (o : Owner) (k : DeadlineKind) : (s.removeDeadline o k).rate = s.rate := rfl
@[simp] theorem State.removeDeadline_sense (o : Owner) (k : DeadlineKind) : (s.removeDeadline o k).sense = s.sense := rfl
@[simp] theorem State.removeDeadline_receiver (o : Owner) (k : DeadlineKind) : (s.removeDeadline o k).receiver = s.receiver := rfl
@[simp] theorem State.removeDeadline_intake (o : Owner) (k : DeadlineKind) : (s.removeDeadline o k).intake = s.intake := rfl
@[simp] theorem State.removeDeadline_pendingFlow (o : Owner) (k : DeadlineKind) : (s.removeDeadline o k).pendingFlow = s.pendingFlow := rfl
@[simp] theorem State.removeDeadline_holding (o : Owner) (k : DeadlineKind) : (s.removeDeadline o k).holding = s.holding := rfl
@[simp] theorem State.removeDeadline_outbound (o : Owner) (k : DeadlineKind) : (s.removeDeadline o k).outbound = s.outbound := rfl
@[simp] theorem State.removeDeadline_sending (o : Owner) (k : DeadlineKind) : (s.removeDeadline o k).sending = s.sending := rfl
@[simp] theorem State.removeDeadline_sessions (o : Owner) (k : DeadlineKind) : (s.removeDeadline o k).sessions = s.sessions := rfl
@[simp] theorem State.removeDeadline_devices (o : Owner) (k : DeadlineKind) : (s.removeDeadline o k).devices = s.devices := rfl
@[simp] theorem State.removeDeadline_nextDue (o : Owner) (k : DeadlineKind) : (s.removeDeadline o k).nextDue = s.nextDue := rfl
@[simp] theorem State.removeDeadline_owed (o : Owner) (k : DeadlineKind) : (s.removeDeadline o k).owed = s.owed := rfl
@[simp] theorem State.removeDeadline_pendingDirect (o : Owner) (k : DeadlineKind) : (s.removeDeadline o k).pendingDirect = s.pendingDirect := rfl
@[simp] theorem State.removeDeadline_flight (o : Owner) (k : DeadlineKind) : (s.removeDeadline o k).flight = s.flight := rfl
@[simp] theorem State.removeDeadline_supplies (o : Owner) (k : DeadlineKind) : (s.removeDeadline o k).supplies = s.supplies := rfl
@[simp] theorem State.removeDeadline_counter (o : Owner) (k : DeadlineKind) : (s.removeDeadline o k).counter = s.counter := rfl
@[simp] theorem State.removeDeadline_wakeMask (o : Owner) (k : DeadlineKind) : (s.removeDeadline o k).wakeMask = s.wakeMask := rfl
@[simp] theorem State.removeDeadline_wakeCause (o : Owner) (k : DeadlineKind) : (s.removeDeadline o k).wakeCause = s.wakeCause := rfl
@[simp] theorem State.removeDeadline_awaiting (o : Owner) (k : DeadlineKind) : (s.removeDeadline o k).awaiting = s.awaiting := rfl
@[simp] theorem State.removeDeadline_textOwed (o : Owner) (k : DeadlineKind) : (s.removeDeadline o k).textOwed = s.textOwed := rfl
@[simp] theorem State.removeDeadline_resetPending (o : Owner) (k : DeadlineKind) : (s.removeDeadline o k).resetPending = s.resetPending := rfl
@[simp] theorem State.removeDeadline_settings (o : Owner) (k : DeadlineKind) : (s.removeDeadline o k).settings = s.settings := rfl
@[simp] theorem State.removeDeadline_idleTexts (o : Owner) (k : DeadlineKind) : (s.removeDeadline o k).idleTexts = s.idleTexts := rfl
@[simp] theorem State.removeDeadline_closedText (o : Owner) (k : DeadlineKind) : (s.removeDeadline o k).closedText = s.closedText := rfl
@[simp] theorem State.removeDeadline_policy (o : Owner) (k : DeadlineKind) : (s.removeDeadline o k).policy = s.policy := rfl
@[simp] theorem State.removeDeadline_defaultPolicy (o : Owner) (k : DeadlineKind) : (s.removeDeadline o k).defaultPolicy = s.defaultPolicy := rfl
@[simp] theorem State.removeDeadline_businessMonth (o : Owner) (k : DeadlineKind) : (s.removeDeadline o k).businessMonth = s.businessMonth := rfl
@[simp] theorem State.removeDeadline_pending (o : Owner) (k : DeadlineKind) : (s.removeDeadline o k).pending = s.pending := rfl
@[simp] theorem State.removeDeadline_session (o : Owner) (k : DeadlineKind) (x : Station) : (s.removeDeadline o k).session x = s.session x := rfl
@[simp] theorem State.removeDeadline_device (o : Owner) (k : DeadlineKind) (x : Port) : (s.removeDeadline o k).device x = s.device x := rfl
@[simp] theorem State.removeDeadline_supply (o : Owner) (k : DeadlineKind) (x : Station) : (s.removeDeadline o k).supply x = s.supply x := rfl
@[simp] theorem State.removeDeadline_due (o : Owner) (k : DeadlineKind) (x : Port) : (s.removeDeadline o k).due x = s.due x := rfl
@[simp] theorem State.removeDeadline_owes (o : Owner) (k : DeadlineKind) (x : Port) : (s.removeDeadline o k).owes x = s.owes x := rfl
@[simp] theorem State.removeDeadline_idleText (o : Owner) (k : DeadlineKind) (x : Station) : (s.removeDeadline o k).idleText x = s.idleText x := rfl

/-! ### placeDeadlineAt -/

@[simp] theorem State.placeDeadlineAt_tick (o : Owner) (k : DeadlineKind) (t : Tick) : (s.placeDeadlineAt o k t).tick = s.tick := rfl
@[simp] theorem State.placeDeadlineAt_slotServed (o : Owner) (k : DeadlineKind) (t : Tick) : (s.placeDeadlineAt o k t).slotServed = s.slotServed := rfl
@[simp] theorem State.placeDeadlineAt_cts (o : Owner) (k : DeadlineKind) (t : Tick) : (s.placeDeadlineAt o k t).cts = s.cts := rfl
@[simp] theorem State.placeDeadlineAt_rate (o : Owner) (k : DeadlineKind) (t : Tick) : (s.placeDeadlineAt o k t).rate = s.rate := rfl
@[simp] theorem State.placeDeadlineAt_sense (o : Owner) (k : DeadlineKind) (t : Tick) : (s.placeDeadlineAt o k t).sense = s.sense := rfl
@[simp] theorem State.placeDeadlineAt_receiver (o : Owner) (k : DeadlineKind) (t : Tick) : (s.placeDeadlineAt o k t).receiver = s.receiver := rfl
@[simp] theorem State.placeDeadlineAt_intake (o : Owner) (k : DeadlineKind) (t : Tick) : (s.placeDeadlineAt o k t).intake = s.intake := rfl
@[simp] theorem State.placeDeadlineAt_pendingFlow (o : Owner) (k : DeadlineKind) (t : Tick) : (s.placeDeadlineAt o k t).pendingFlow = s.pendingFlow := rfl
@[simp] theorem State.placeDeadlineAt_holding (o : Owner) (k : DeadlineKind) (t : Tick) : (s.placeDeadlineAt o k t).holding = s.holding := rfl
@[simp] theorem State.placeDeadlineAt_outbound (o : Owner) (k : DeadlineKind) (t : Tick) : (s.placeDeadlineAt o k t).outbound = s.outbound := rfl
@[simp] theorem State.placeDeadlineAt_sending (o : Owner) (k : DeadlineKind) (t : Tick) : (s.placeDeadlineAt o k t).sending = s.sending := rfl
@[simp] theorem State.placeDeadlineAt_sessions (o : Owner) (k : DeadlineKind) (t : Tick) : (s.placeDeadlineAt o k t).sessions = s.sessions := rfl
@[simp] theorem State.placeDeadlineAt_devices (o : Owner) (k : DeadlineKind) (t : Tick) : (s.placeDeadlineAt o k t).devices = s.devices := rfl
@[simp] theorem State.placeDeadlineAt_nextDue (o : Owner) (k : DeadlineKind) (t : Tick) : (s.placeDeadlineAt o k t).nextDue = s.nextDue := rfl
@[simp] theorem State.placeDeadlineAt_owed (o : Owner) (k : DeadlineKind) (t : Tick) : (s.placeDeadlineAt o k t).owed = s.owed := rfl
@[simp] theorem State.placeDeadlineAt_pendingDirect (o : Owner) (k : DeadlineKind) (t : Tick) : (s.placeDeadlineAt o k t).pendingDirect = s.pendingDirect := rfl
@[simp] theorem State.placeDeadlineAt_flight (o : Owner) (k : DeadlineKind) (t : Tick) : (s.placeDeadlineAt o k t).flight = s.flight := rfl
@[simp] theorem State.placeDeadlineAt_supplies (o : Owner) (k : DeadlineKind) (t : Tick) : (s.placeDeadlineAt o k t).supplies = s.supplies := rfl
@[simp] theorem State.placeDeadlineAt_counter (o : Owner) (k : DeadlineKind) (t : Tick) : (s.placeDeadlineAt o k t).counter = s.counter := rfl
@[simp] theorem State.placeDeadlineAt_wakeMask (o : Owner) (k : DeadlineKind) (t : Tick) : (s.placeDeadlineAt o k t).wakeMask = s.wakeMask := rfl
@[simp] theorem State.placeDeadlineAt_wakeCause (o : Owner) (k : DeadlineKind) (t : Tick) : (s.placeDeadlineAt o k t).wakeCause = s.wakeCause := rfl
@[simp] theorem State.placeDeadlineAt_awaiting (o : Owner) (k : DeadlineKind) (t : Tick) : (s.placeDeadlineAt o k t).awaiting = s.awaiting := rfl
@[simp] theorem State.placeDeadlineAt_textOwed (o : Owner) (k : DeadlineKind) (t : Tick) : (s.placeDeadlineAt o k t).textOwed = s.textOwed := rfl
@[simp] theorem State.placeDeadlineAt_resetPending (o : Owner) (k : DeadlineKind) (t : Tick) : (s.placeDeadlineAt o k t).resetPending = s.resetPending := rfl
@[simp] theorem State.placeDeadlineAt_settings (o : Owner) (k : DeadlineKind) (t : Tick) : (s.placeDeadlineAt o k t).settings = s.settings := rfl
@[simp] theorem State.placeDeadlineAt_idleTexts (o : Owner) (k : DeadlineKind) (t : Tick) : (s.placeDeadlineAt o k t).idleTexts = s.idleTexts := rfl
@[simp] theorem State.placeDeadlineAt_closedText (o : Owner) (k : DeadlineKind) (t : Tick) : (s.placeDeadlineAt o k t).closedText = s.closedText := rfl
@[simp] theorem State.placeDeadlineAt_policy (o : Owner) (k : DeadlineKind) (t : Tick) : (s.placeDeadlineAt o k t).policy = s.policy := rfl
@[simp] theorem State.placeDeadlineAt_defaultPolicy (o : Owner) (k : DeadlineKind) (t : Tick) : (s.placeDeadlineAt o k t).defaultPolicy = s.defaultPolicy := rfl
@[simp] theorem State.placeDeadlineAt_businessMonth (o : Owner) (k : DeadlineKind) (t : Tick) : (s.placeDeadlineAt o k t).businessMonth = s.businessMonth := rfl
@[simp] theorem State.placeDeadlineAt_pending (o : Owner) (k : DeadlineKind) (t : Tick) : (s.placeDeadlineAt o k t).pending = s.pending := rfl
@[simp] theorem State.placeDeadlineAt_session (o : Owner) (k : DeadlineKind) (t : Tick) (x : Station) : (s.placeDeadlineAt o k t).session x = s.session x := rfl
@[simp] theorem State.placeDeadlineAt_device (o : Owner) (k : DeadlineKind) (t : Tick) (x : Port) : (s.placeDeadlineAt o k t).device x = s.device x := rfl
@[simp] theorem State.placeDeadlineAt_supply (o : Owner) (k : DeadlineKind) (t : Tick) (x : Station) : (s.placeDeadlineAt o k t).supply x = s.supply x := rfl
@[simp] theorem State.placeDeadlineAt_due (o : Owner) (k : DeadlineKind) (t : Tick) (x : Port) : (s.placeDeadlineAt o k t).due x = s.due x := rfl
@[simp] theorem State.placeDeadlineAt_owes (o : Owner) (k : DeadlineKind) (t : Tick) (x : Port) : (s.placeDeadlineAt o k t).owes x = s.owes x := rfl
@[simp] theorem State.placeDeadlineAt_idleText (o : Owner) (k : DeadlineKind) (t : Tick) (x : Station) : (s.placeDeadlineAt o k t).idleText x = s.idleText x := rfl

/-! ### append -/

@[simp] theorem State.append_tick (i : Item) : (s.append i).tick = s.tick := rfl
@[simp] theorem State.append_slotServed (i : Item) : (s.append i).slotServed = s.slotServed := rfl
@[simp] theorem State.append_cts (i : Item) : (s.append i).cts = s.cts := rfl
@[simp] theorem State.append_rate (i : Item) : (s.append i).rate = s.rate := rfl
@[simp] theorem State.append_sense (i : Item) : (s.append i).sense = s.sense := rfl
@[simp] theorem State.append_receiver (i : Item) : (s.append i).receiver = s.receiver := rfl
@[simp] theorem State.append_intake (i : Item) : (s.append i).intake = s.intake := rfl
@[simp] theorem State.append_pendingFlow (i : Item) : (s.append i).pendingFlow = s.pendingFlow := rfl
@[simp] theorem State.append_holding (i : Item) : (s.append i).holding = s.holding := rfl
@[simp] theorem State.append_sending (i : Item) : (s.append i).sending = s.sending := rfl
@[simp] theorem State.append_sessions (i : Item) : (s.append i).sessions = s.sessions := rfl
@[simp] theorem State.append_devices (i : Item) : (s.append i).devices = s.devices := rfl
@[simp] theorem State.append_nextDue (i : Item) : (s.append i).nextDue = s.nextDue := rfl
@[simp] theorem State.append_owed (i : Item) : (s.append i).owed = s.owed := rfl
@[simp] theorem State.append_pendingDirect (i : Item) : (s.append i).pendingDirect = s.pendingDirect := rfl
@[simp] theorem State.append_flight (i : Item) : (s.append i).flight = s.flight := rfl
@[simp] theorem State.append_deadlines (i : Item) : (s.append i).deadlines = s.deadlines := rfl
@[simp] theorem State.append_supplies (i : Item) : (s.append i).supplies = s.supplies := rfl
@[simp] theorem State.append_counter (i : Item) : (s.append i).counter = s.counter := rfl
@[simp] theorem State.append_wakeMask (i : Item) : (s.append i).wakeMask = s.wakeMask := rfl
@[simp] theorem State.append_wakeCause (i : Item) : (s.append i).wakeCause = s.wakeCause := rfl
@[simp] theorem State.append_awaiting (i : Item) : (s.append i).awaiting = s.awaiting := rfl
@[simp] theorem State.append_textOwed (i : Item) : (s.append i).textOwed = s.textOwed := rfl
@[simp] theorem State.append_resetPending (i : Item) : (s.append i).resetPending = s.resetPending := rfl
@[simp] theorem State.append_settings (i : Item) : (s.append i).settings = s.settings := rfl
@[simp] theorem State.append_idleTexts (i : Item) : (s.append i).idleTexts = s.idleTexts := rfl
@[simp] theorem State.append_closedText (i : Item) : (s.append i).closedText = s.closedText := rfl
@[simp] theorem State.append_policy (i : Item) : (s.append i).policy = s.policy := rfl
@[simp] theorem State.append_defaultPolicy (i : Item) : (s.append i).defaultPolicy = s.defaultPolicy := rfl
@[simp] theorem State.append_businessMonth (i : Item) : (s.append i).businessMonth = s.businessMonth := rfl
@[simp] theorem State.append_pending (i : Item) : (s.append i).pending = s.pending := rfl
@[simp] theorem State.append_session (i : Item) (x : Station) : (s.append i).session x = s.session x := rfl
@[simp] theorem State.append_device (i : Item) (x : Port) : (s.append i).device x = s.device x := rfl
@[simp] theorem State.append_supply (i : Item) (x : Station) : (s.append i).supply x = s.supply x := rfl
@[simp] theorem State.append_due (i : Item) (x : Port) : (s.append i).due x = s.due x := rfl
@[simp] theorem State.append_owes (i : Item) (x : Port) : (s.append i).owes x = s.owes x := rfl
@[simp] theorem State.append_idleText (i : Item) (x : Station) : (s.append i).idleText x = s.idleText x := rfl
@[simp] theorem State.append_deadlineOf (i : Item) (o' : Owner) (k' : DeadlineKind) :
    (s.append i).deadlineOf o' k' = s.deadlineOf o' k' := rfl

/-! ### note -/

@[simp] theorem State.note_tick (k : ItemKey) (u : Item → Item) (i : Item) : (s.note k u i).tick = s.tick := rfl
@[simp] theorem State.note_slotServed (k : ItemKey) (u : Item → Item) (i : Item) : (s.note k u i).slotServed = s.slotServed := rfl
@[simp] theorem State.note_cts (k : ItemKey) (u : Item → Item) (i : Item) : (s.note k u i).cts = s.cts := rfl
@[simp] theorem State.note_rate (k : ItemKey) (u : Item → Item) (i : Item) : (s.note k u i).rate = s.rate := rfl
@[simp] theorem State.note_sense (k : ItemKey) (u : Item → Item) (i : Item) : (s.note k u i).sense = s.sense := rfl
@[simp] theorem State.note_receiver (k : ItemKey) (u : Item → Item) (i : Item) : (s.note k u i).receiver = s.receiver := rfl
@[simp] theorem State.note_intake (k : ItemKey) (u : Item → Item) (i : Item) : (s.note k u i).intake = s.intake := rfl
@[simp] theorem State.note_pendingFlow (k : ItemKey) (u : Item → Item) (i : Item) : (s.note k u i).pendingFlow = s.pendingFlow := rfl
@[simp] theorem State.note_holding (k : ItemKey) (u : Item → Item) (i : Item) : (s.note k u i).holding = s.holding := rfl
@[simp] theorem State.note_sending (k : ItemKey) (u : Item → Item) (i : Item) : (s.note k u i).sending = s.sending := rfl
@[simp] theorem State.note_sessions (k : ItemKey) (u : Item → Item) (i : Item) : (s.note k u i).sessions = s.sessions := rfl
@[simp] theorem State.note_devices (k : ItemKey) (u : Item → Item) (i : Item) : (s.note k u i).devices = s.devices := rfl
@[simp] theorem State.note_nextDue (k : ItemKey) (u : Item → Item) (i : Item) : (s.note k u i).nextDue = s.nextDue := rfl
@[simp] theorem State.note_owed (k : ItemKey) (u : Item → Item) (i : Item) : (s.note k u i).owed = s.owed := rfl
@[simp] theorem State.note_pendingDirect (k : ItemKey) (u : Item → Item) (i : Item) : (s.note k u i).pendingDirect = s.pendingDirect := rfl
@[simp] theorem State.note_flight (k : ItemKey) (u : Item → Item) (i : Item) : (s.note k u i).flight = s.flight := rfl
@[simp] theorem State.note_deadlines (k : ItemKey) (u : Item → Item) (i : Item) : (s.note k u i).deadlines = s.deadlines := rfl
@[simp] theorem State.note_supplies (k : ItemKey) (u : Item → Item) (i : Item) : (s.note k u i).supplies = s.supplies := rfl
@[simp] theorem State.note_counter (k : ItemKey) (u : Item → Item) (i : Item) : (s.note k u i).counter = s.counter := rfl
@[simp] theorem State.note_wakeMask (k : ItemKey) (u : Item → Item) (i : Item) : (s.note k u i).wakeMask = s.wakeMask := rfl
@[simp] theorem State.note_wakeCause (k : ItemKey) (u : Item → Item) (i : Item) : (s.note k u i).wakeCause = s.wakeCause := rfl
@[simp] theorem State.note_awaiting (k : ItemKey) (u : Item → Item) (i : Item) : (s.note k u i).awaiting = s.awaiting := rfl
@[simp] theorem State.note_textOwed (k : ItemKey) (u : Item → Item) (i : Item) : (s.note k u i).textOwed = s.textOwed := rfl
@[simp] theorem State.note_resetPending (k : ItemKey) (u : Item → Item) (i : Item) : (s.note k u i).resetPending = s.resetPending := rfl
@[simp] theorem State.note_settings (k : ItemKey) (u : Item → Item) (i : Item) : (s.note k u i).settings = s.settings := rfl
@[simp] theorem State.note_idleTexts (k : ItemKey) (u : Item → Item) (i : Item) : (s.note k u i).idleTexts = s.idleTexts := rfl
@[simp] theorem State.note_closedText (k : ItemKey) (u : Item → Item) (i : Item) : (s.note k u i).closedText = s.closedText := rfl
@[simp] theorem State.note_policy (k : ItemKey) (u : Item → Item) (i : Item) : (s.note k u i).policy = s.policy := rfl
@[simp] theorem State.note_defaultPolicy (k : ItemKey) (u : Item → Item) (i : Item) : (s.note k u i).defaultPolicy = s.defaultPolicy := rfl
@[simp] theorem State.note_businessMonth (k : ItemKey) (u : Item → Item) (i : Item) : (s.note k u i).businessMonth = s.businessMonth := rfl
@[simp] theorem State.note_pending (k : ItemKey) (u : Item → Item) (i : Item) : (s.note k u i).pending = s.pending := rfl
@[simp] theorem State.note_session (k : ItemKey) (u : Item → Item) (i : Item) (x : Station) : (s.note k u i).session x = s.session x := rfl
@[simp] theorem State.note_device (k : ItemKey) (u : Item → Item) (i : Item) (x : Port) : (s.note k u i).device x = s.device x := rfl
@[simp] theorem State.note_supply (k : ItemKey) (u : Item → Item) (i : Item) (x : Station) : (s.note k u i).supply x = s.supply x := rfl
@[simp] theorem State.note_due (k : ItemKey) (u : Item → Item) (i : Item) (x : Port) : (s.note k u i).due x = s.due x := rfl
@[simp] theorem State.note_owes (k : ItemKey) (u : Item → Item) (i : Item) (x : Port) : (s.note k u i).owes x = s.owes x := rfl
@[simp] theorem State.note_idleText (k : ItemKey) (u : Item → Item) (i : Item) (x : Station) : (s.note k u i).idleText x = s.idleText x := rfl
@[simp] theorem State.note_deadlineOf (k : ItemKey) (u : Item → Item) (i : Item) (o' : Owner) (k' : DeadlineKind) :
    (s.note k u i).deadlineOf o' k' = s.deadlineOf o' k' := rfl

/-! ### What an update writes -/

@[simp] theorem State.append_outbound (i : Item) : (s.append i).outbound = s.outbound ++ [i] := rfl
@[simp] theorem State.note_outbound (k : ItemKey) (u : Item → Item) (i : Item) :
    (s.note k u i).outbound = coalesce k u i s.outbound := rfl
@[simp] theorem State.removeDeadline_deadlines (o : Owner) (k : DeadlineKind) :
    (s.removeDeadline o k).deadlines = s.deadlines.filter (fun e => !e.isFor o k) := rfl
@[simp] theorem State.placeDeadlineAt_deadlines (o : Owner) (k : DeadlineKind) (t : Tick) :
    (s.placeDeadlineAt o k t).deadlines = insertEntry s.tick ⟨o, k, t⟩ (s.deadlines.filter (fun e => !e.isFor o k)) := rfl

/-! ### Reads after writes -/

/-- Reading back the session written. -/
@[simp] theorem State.session_setSession (st : Station) (v : Session) : (s.setSession st v).session st = v := by
  simp [State.session, State.setSession]

/-- A write leaves every other session. -/
theorem State.session_setSession_of_ne {st x : Station} (h : x ≠ st) (v : Session) : (s.setSession st v).session x = s.session x := by
  have : st.val ≠ x.val := fun e => h (Fin.ext e.symm)
  simp [State.session, State.setSession, this]

/-- A write at st, read at x. -/
theorem State.session_setSession_eq (st x : Station) (v : Session) : (s.setSession st v).session x = if x = st then v else s.session x := by
  by_cases h : x = st
  · subst h; simp
  · simp [h, State.session_setSession_of_ne s h]

/-- Reading back the device written. -/
@[simp] theorem State.device_setDevice (p : Port) (v : Device) : (s.setDevice p v).device p = v := by
  simp [State.device, State.setDevice]

/-- A write leaves every other device. -/
theorem State.device_setDevice_of_ne {p x : Port} (h : x ≠ p) (v : Device) : (s.setDevice p v).device x = s.device x := by
  have : p.val ≠ x.val := fun e => h (Fin.ext e.symm)
  simp [State.device, State.setDevice, this]

/-- A write at p, read at x. -/
theorem State.device_setDevice_eq (p x : Port) (v : Device) : (s.setDevice p v).device x = if x = p then v else s.device x := by
  by_cases h : x = p
  · subst h; simp
  · simp [h, State.device_setDevice_of_ne s h]

/-- Reading back the supply written. -/
@[simp] theorem State.supply_setSupply (st : Station) (v : Supply) : (s.setSupply st v).supply st = v := by
  simp [State.supply, State.setSupply]

/-- A write leaves every other supply. -/
theorem State.supply_setSupply_of_ne {st x : Station} (h : x ≠ st) (v : Supply) : (s.setSupply st v).supply x = s.supply x := by
  have : st.val ≠ x.val := fun e => h (Fin.ext e.symm)
  simp [State.supply, State.setSupply, this]

/-- A write at st, read at x. -/
theorem State.supply_setSupply_eq (st x : Station) (v : Supply) : (s.setSupply st v).supply x = if x = st then v else s.supply x := by
  by_cases h : x = st
  · subst h; simp
  · simp [h, State.supply_setSupply_of_ne s h]

/-- The later of two writes stays. -/
@[simp] theorem State.setSupply_setSupply (st : Station) (a b : Supply) :
    (s.setSupply st a).setSupply st b = s.setSupply st b := by
  simp [State.setSupply]

/-- Reading back the due written. -/
@[simp] theorem State.due_setDue (p : Port) (v : Option Due) : (s.setDue p v).due p = v := by
  simp [State.due, State.setDue]

/-- A write leaves every other due. -/
theorem State.due_setDue_of_ne {p x : Port} (h : x ≠ p) (v : Option Due) : (s.setDue p v).due x = s.due x := by
  have : p.val ≠ x.val := fun e => h (Fin.ext e.symm)
  simp [State.due, State.setDue, this]

/-- A write at p, read at x. -/
theorem State.due_setDue_eq (p x : Port) (v : Option Due) : (s.setDue p v).due x = if x = p then v else s.due x := by
  by_cases h : x = p
  · subst h; simp
  · simp [h, State.due_setDue_of_ne s h]

/-- Reading back the owes written. -/
@[simp] theorem State.owes_setOwed (p : Port) (v : Option Owed) : (s.setOwed p v).owes p = v := by
  simp [State.owes, State.setOwed]

/-- A write leaves every other owes. -/
theorem State.owes_setOwed_of_ne {p x : Port} (h : x ≠ p) (v : Option Owed) : (s.setOwed p v).owes x = s.owes x := by
  have : p.val ≠ x.val := fun e => h (Fin.ext e.symm)
  simp [State.owes, State.setOwed, this]

/-- A write at p, read at x. -/
theorem State.owes_setOwed_eq (p x : Port) (v : Option Owed) : (s.setOwed p v).owes x = if x = p then v else s.owes x := by
  by_cases h : x = p
  · subst h; simp
  · simp [h, State.owes_setOwed_of_ne s h]

end Sys2Proof.Machine
end

