-- ==== Sys2Proof/Laws/Edits.lean ====
section
/-! SUPPORT. What the blocks behind the link can do to the state, said once: a chain of edits, each within a scope of
stations, devices, supplies and the counter. Every shared operation of the session engine, the port manager, the counter
controller and the supply monitor is such a chain (the lemmas named edited_…), so a property that each edit keeps is
kept by all of them. -/

namespace Sys2Proof.Machine

/-- Which records a chain of edits may touch. -/
structure Scope where
  station : Station → Prop
  port : Port → Prop
  supply : Station → Prop
  counter : Prop

/-- The scope of an owner of deadline entries. -/
def Scope.owner (A : Scope) : Owner → Prop
  | .session st => A.station st
  | .device p => A.port p
  | .supply st => A.supply st
  | .counter => A.counter

/-- One scope within another. -/
structure Scope.Within (A B : Scope) : Prop where
  station : ∀ x, A.station x → B.station x
  port : ∀ x, A.port x → B.port x
  supply : ∀ x, A.supply x → B.supply x
  counter : A.counter → B.counter

/-- One station: its session and its two devices. -/
def Scope.at (st : Station) : Scope := ⟨fun x => x = st, fun p => stationOf p = st, fun _ => False, False⟩

/-- One device. -/
def Scope.device (p : Port) : Scope := ⟨fun _ => False, fun x => x = p, fun _ => False, False⟩

/-- The counter and the devices. -/
def Scope.devices : Scope := ⟨fun _ => False, fun _ => True, fun _ => False, True⟩

/-- What an exchange with a device of a station can reach: its session, any device, the counter. -/
def Scope.exchange (st : Station) : Scope := ⟨fun x => x = st, fun _ => True, fun _ => False, True⟩

/-- What a station's supply can reach. -/
def Scope.power (st : Station) : Scope := ⟨fun x => x = st, fun p => stationOf p = st, fun x => x = st, True⟩

/-- Everything but the supplies. -/
def Scope.noSupply : Scope := ⟨fun _ => True, fun _ => True, fun _ => False, True⟩

/-- Everything. -/
def Scope.all : Scope := ⟨fun _ => True, fun _ => True, fun _ => True, True⟩

/-- The supply records' rule: LOCKED exactly at a trip count of 3 (R152). -/
def Supply.lockedAtThree (r : Supply) : Prop := (r.state = .locked ↔ r.tripCount = 3) ∧ r.tripCount ≤ 3

/-- The edits. A device edit keeps its restart count within the old one or the limit in force (R114, R116); a supply
edit keeps LOCKED, and keeps the rule of R152; a notice of a coalesced sort keeps its key (R189); what is appended is a
STEP-RESULT or a SESSION-END. -/
inductive Edited (A : Scope) (s : State) : State → Prop
  | refl : Edited A s s
  | session {t : State} (st : Station) (r : Session) : Edited A s t → A.station st → Edited A s (t.setSession st r)
  | device {t : State} (p : Port) (d : Device) : Edited A s t → A.port p →
      (d.restartCount ≤ (t.device p).restartCount ∨ d.restartCount ≤ t.settings.restartLimit) →
      Edited A s (t.setDevice p d)
  | supply {t : State} (st : Station) (r : Supply) : Edited A s t → A.supply st →
      ((t.supply st).state = .locked → r.state = .locked) →
      ((t.supply st).lockedAtThree → r.lockedAtThree) → Edited A s (t.setSupply st r)
  | due {t : State} (p : Port) (x : Option Due) : Edited A s t → A.port p → Edited A s (t.setDue p x)
  | owed {t : State} (p : Port) (x : Option Owed) : Edited A s t → A.port p → Edited A s (t.setOwed p x)
  | place {t : State} (o : Owner) (k : DeadlineKind) (x : Tick) : Edited A s t → A.owner o →
      Edited A s (t.placeDeadlineAt o k x)
  | remove {t : State} (o : Owner) (k : DeadlineKind) : Edited A s t → A.owner o → Edited A s (t.removeDeadline o k)
  | note {t : State} (k : ItemKey) (u : Item → Item) (i : Item) : Edited A s t → i.key = some k →
      (∀ x, x.key = some k → (u x).key = some k) → Edited A s (t.note k u i)
  | result {t : State} (i : Item) : Edited A s t → i.key = none → i.isReply = false → Edited A s (t.append i)
  | owedText {t : State} (st : Station) (x : Option OwedText) : Edited A s t → A.station st →
      Edited A s { t with textOwed := t.textOwed.set st.val x }
  | owedTexts {t : State} (x : Vector (Option OwedText) 8) : Edited A s t → A.counter →
      Edited A s { t with textOwed := x }
  | counter {t : State} (c : CounterState) : Edited A s t → A.counter → Edited A s { t with counter := c }
  | wake {t : State} (c : WakeCause) : Edited A s t → A.counter → Edited A s { t with wakeCause := some c }
  | await {t : State} (x : Vector Bool 16) : Edited A s t → A.counter → Edited A s { t with awaiting := x }

namespace Edited

variable {A B : Scope} {s t u : State}

theorem trans (h : Edited A s t) (g : Edited A t u) : Edited A s u := by
  induction g with
  | refl => exact h
  | session st r _ a ih => exact .session st r ih a
  | device p d _ a c ih => exact .device p d ih a c
  | supply st r _ a c e ih => exact .supply st r ih a c e
  | due p x _ a ih => exact .due p x ih a
  | owed p x _ a ih => exact .owed p x ih a
  | place o k x _ a ih => exact .place o k x ih a
  | remove o k _ a ih => exact .remove o k ih a
  | note k v i _ a c ih => exact .note k v i ih a c
  | result i _ a c ih => exact .result i ih a c
  | owedText st x _ a ih => exact .owedText st x ih a
  | owedTexts x _ a ih => exact .owedTexts x ih a
  | counter c _ a ih => exact .counter c ih a
  | wake c _ a ih => exact .wake c ih a
  | await x _ a ih => exact .await x ih a

theorem mono (w : A.Within B) (h : Edited A s t) : Edited B s t := by
  have ho : ∀ o, A.owner o → B.owner o := fun o => by
    cases o <;> simp only [Scope.owner] <;> first | exact w.station _ | exact w.port _ | exact w.supply _ | exact w.counter
  induction h with
  | refl => exact .refl
  | session st r _ a ih => exact .session st r ih (w.station _ a)
  | device p d _ a c ih => exact .device p d ih (w.port _ a) c
  | supply st r _ a c e ih => exact .supply st r ih (w.supply _ a) c e
  | due p x _ a ih => exact .due p x ih (w.port _ a)
  | owed p x _ a ih => exact .owed p x ih (w.port _ a)
  | place o k x _ a ih => exact .place o k x ih (ho _ a)
  | remove o k _ a ih => exact .remove o k ih (ho _ a)
  | note k v i _ a c ih => exact .note k v i ih a c
  | result i _ a c ih => exact .result i ih a c
  | owedText st x _ a ih => exact .owedText st x ih (w.station _ a)
  | owedTexts x _ a ih => exact .owedTexts x ih (w.counter a)
  | counter c _ a ih => exact .counter c ih (w.counter a)
  | wake c _ a ih => exact .wake c ih (w.counter a)
  | await x _ a ih => exact .await x ih (w.counter a)

end Edited

theorem Scope.at_within_exchange (st : Station) : (Scope.at st).Within (Scope.exchange st) :=
  ⟨fun _ h => h, fun _ _ => trivial, fun _ h => h, fun h => h.elim⟩

theorem Scope.at_within_power (st : Station) : (Scope.at st).Within (Scope.power st) :=
  ⟨fun _ h => h, fun _ h => h, fun _ h => h.elim, fun h => h.elim⟩

theorem Scope.at_within_noSupply (st : Station) : (Scope.at st).Within .noSupply :=
  ⟨fun _ _ => trivial, fun _ _ => trivial, fun _ h => h, fun h => h.elim⟩

theorem Scope.devices_within_noSupply : Scope.devices.Within .noSupply :=
  ⟨fun _ _ => trivial, fun _ _ => trivial, fun _ h => h, fun h => h⟩

theorem Scope.devices_within_exchange (st : Station) : Scope.devices.Within (.exchange st) :=
  ⟨fun _ h => h.elim, fun _ _ => trivial, fun _ h => h, fun h => h⟩

theorem Scope.exchange_within_noSupply (st : Station) : (Scope.exchange st).Within .noSupply :=
  ⟨fun _ _ => trivial, fun _ _ => trivial, fun _ h => h, fun h => h⟩

theorem Scope.noSupply_within_all : Scope.noSupply.Within .all :=
  ⟨fun _ h => h, fun _ h => h, fun _ h => h.elim, fun h => h⟩

theorem Scope.power_within_all (st : Station) : (Scope.power st).Within .all :=
  ⟨fun _ _ => trivial, fun _ _ => trivial, fun _ _ => trivial, fun h => h⟩

theorem Scope.devices_within_all : Scope.devices.Within .all :=
  ⟨fun _ h => h.elim, fun _ h => h, fun _ h => h.elim, fun h => h⟩

theorem Scope.device_within_devices (p : Port) : (Scope.device p).Within .devices :=
  ⟨fun _ h => h, fun _ _ => trivial, fun _ h => h, fun h => h.elim⟩

theorem Scope.device_within_at {p : Port} {st : Station} (h : stationOf p = st) : (Scope.device p).Within (.at st) :=
  ⟨fun _ h => h.elim, fun _ e => by cases e; exact h, fun _ h => h, fun h => h⟩

theorem Scope.device_within_exchange (p : Port) (st : Station) : (Scope.device p).Within (.exchange st) :=
  ⟨fun _ h => h.elim, fun _ _ => trivial, fun _ h => h, fun h => h.elim⟩

@[simp] theorem stationOf_readerOf (st : Station) : stationOf (readerOf st) = st := by
  apply Fin.ext; simp [stationOf, readerOf]

@[simp] theorem stationOf_keypadOf (st : Station) : stationOf (keypadOf st) = st := by
  apply Fin.ext; simp only [stationOf, keypadOf]; omega

variable {A : Scope} {s : State}

theorem edited_forStations {f : Station → State → State} (h : ∀ st s, Edited A s (f st s)) :
    Edited A s (s.forStations f) := by
  unfold State.forStations
  generalize stations = l
  induction l generalizing s with
  | nil => exact .refl
  | cons x xs ih => exact (h x s).trans ih

theorem edited_forPorts {f : Port → State → State} (h : ∀ p s, Edited A s (f p s)) :
    Edited A s (s.forPorts f) := by
  unfold State.forPorts
  generalize ports = l
  induction l generalizing s with
  | nil => exact .refl
  | cons x xs ih => exact (h x s).trans ih

theorem edited_placeDeadline (s : State) (o : Owner) (k : DeadlineKind) (n : Nat) (h : A.owner o) :
    Edited A s (s.placeDeadline o k n) := .place _ _ _ .refl h

theorem edited_removeDeadline (s : State) (o : Owner) (k : DeadlineKind) (h : A.owner o) :
    Edited A s (s.removeDeadline o k) := .remove _ _ .refl h

theorem edited_ite {c : Prop} [Decidable c] {t u : State} (ht : Edited A s t) (hu : Edited A s u) :
    Edited A s (if c then t else u) := by
  split
  · exact ht
  · exact hu

/-! ### What a chain of edits leaves -/

/-- The fields no edit touches: the clock, the pins, the link's receiving side and its transmitter, the exchange in
flight, the wake mask, a pending reset, the retained store and the model's queue. -/
structure Untouched (s t : State) : Prop where
  tick : t.tick = s.tick
  slotServed : t.slotServed = s.slotServed
  cts : t.cts = s.cts
  rate : t.rate = s.rate
  sense : t.sense = s.sense
  receiver : t.receiver = s.receiver
  intake : t.intake = s.intake
  pendingFlow : t.pendingFlow = s.pendingFlow
  holding : t.holding = s.holding
  sending : t.sending = s.sending
  pendingDirect : t.pendingDirect = s.pendingDirect
  flight : t.flight = s.flight
  wakeMask : t.wakeMask = s.wakeMask
  resetPending : t.resetPending = s.resetPending
  settings : t.settings = s.settings
  idleTexts : t.idleTexts = s.idleTexts
  closedText : t.closedText = s.closedText
  policy : t.policy = s.policy
  defaultPolicy : t.defaultPolicy = s.defaultPolicy
  businessMonth : t.businessMonth = s.businessMonth
  pending : t.pending = s.pending

theorem Untouched.refl (s : State) : Untouched s s := by constructor <;> rfl

theorem Untouched.trans {s t u : State} (h : Untouched s t) (g : Untouched t u) : Untouched s u := by
  constructor
  · exact g.tick.trans h.tick
  · exact g.slotServed.trans h.slotServed
  · exact g.cts.trans h.cts
  · exact g.rate.trans h.rate
  · exact g.sense.trans h.sense
  · exact g.receiver.trans h.receiver
  · exact g.intake.trans h.intake
  · exact g.pendingFlow.trans h.pendingFlow
  · exact g.holding.trans h.holding
  · exact g.sending.trans h.sending
  · exact g.pendingDirect.trans h.pendingDirect
  · exact g.flight.trans h.flight
  · exact g.wakeMask.trans h.wakeMask
  · exact g.resetPending.trans h.resetPending
  · exact g.settings.trans h.settings
  · exact g.idleTexts.trans h.idleTexts
  · exact g.closedText.trans h.closedText
  · exact g.policy.trans h.policy
  · exact g.defaultPolicy.trans h.defaultPolicy
  · exact g.businessMonth.trans h.businessMonth
  · exact g.pending.trans h.pending

namespace Edited

variable {A : Scope} {s t : State}

theorem untouched (h : Edited A s t) : Untouched s t := by
  induction h with
  | refl => exact .refl s
  | session => rename_i ih; exact ih.trans (by constructor <;> rfl)
  | device => rename_i ih; exact ih.trans (by constructor <;> rfl)
  | supply => rename_i ih; exact ih.trans (by constructor <;> rfl)
  | due => rename_i ih; exact ih.trans (by constructor <;> rfl)
  | owed => rename_i ih; exact ih.trans (by constructor <;> rfl)
  | place => rename_i ih; exact ih.trans (by constructor <;> rfl)
  | remove => rename_i ih; exact ih.trans (by constructor <;> rfl)
  | note => rename_i ih; exact ih.trans (by constructor <;> rfl)
  | result => rename_i ih; exact ih.trans (by constructor <;> rfl)
  | owedText => rename_i ih; exact ih.trans (by constructor <;> rfl)
  | owedTexts => rename_i ih; exact ih.trans (by constructor <;> rfl)
  | counter => rename_i ih; exact ih.trans (by constructor <;> rfl)
  | wake => rename_i ih; exact ih.trans (by constructor <;> rfl)
  | await => rename_i ih; exact ih.trans (by constructor <;> rfl)

/-- A session outside the scope is left. -/
theorem session_eq (h : Edited A s t) {x : Station} (hx : ¬A.station x) : t.session x = s.session x := by
  induction h with
  | session st r _ a ih =>
    rw [State.session_setSession_of_ne _ (by rintro rfl; exact hx a)]
    exact ih
  | device => assumption
  | supply => assumption
  | due => assumption
  | owed => assumption
  | place => assumption
  | remove => assumption
  | note => assumption
  | result => assumption
  | owedText => assumption
  | owedTexts => assumption
  | counter => assumption
  | wake => assumption
  | await => assumption
  | refl => rfl

/-- A device outside the scope is left. -/
theorem device_eq (h : Edited A s t) {x : Port} (hx : ¬A.port x) : t.device x = s.device x := by
  induction h with
  | device p d _ a _ ih =>
    rw [State.device_setDevice_of_ne _ (by rintro rfl; exact hx a)]
    exact ih
  | session => assumption
  | supply => assumption
  | due => assumption
  | owed => assumption
  | place => assumption
  | remove => assumption
  | note => assumption
  | result => assumption
  | owedText => assumption
  | owedTexts => assumption
  | counter => assumption
  | wake => assumption
  | await => assumption
  | refl => rfl

/-- A supply outside the scope is left. -/
theorem supply_eq (h : Edited A s t) {x : Station} (hx : ¬A.supply x) : t.supply x = s.supply x := by
  induction h with
  | supply st r _ a _ _ ih =>
    rw [State.supply_setSupply_of_ne _ (by rintro rfl; exact hx a)]
    exact ih
  | session => assumption
  | device => assumption
  | due => assumption
  | owed => assumption
  | place => assumption
  | remove => assumption
  | note => assumption
  | result => assumption
  | owedText => assumption
  | owedTexts => assumption
  | counter => assumption
  | wake => assumption
  | await => assumption
  | refl => rfl

/-- A device's due tick outside the scope is left. -/
theorem due_eq (h : Edited A s t) {x : Port} (hx : ¬A.port x) : t.due x = s.due x := by
  induction h with
  | due p d _ a ih =>
    rw [State.due_setDue_of_ne _ (by rintro rfl; exact hx a)]
    exact ih
  | session => assumption
  | device => assumption
  | supply => assumption
  | owed => assumption
  | place => assumption
  | remove => assumption
  | note => assumption
  | result => assumption
  | owedText => assumption
  | owedTexts => assumption
  | counter => assumption
  | wake => assumption
  | await => assumption
  | refl => rfl

/-- The counter is left by a chain outside its scope. -/
theorem counter_eq (h : Edited A s t) (hx : ¬A.counter) :
    t.counter = s.counter ∧ t.wakeCause = s.wakeCause ∧ t.awaiting = s.awaiting := by
  induction h with
  | refl => exact ⟨rfl, rfl, rfl⟩
  | session => assumption
  | device => assumption
  | supply => assumption
  | due => assumption
  | owed => assumption
  | place => assumption
  | remove => assumption
  | note => assumption
  | result => assumption
  | owedText => assumption
  | owedTexts => exact absurd (by assumption) hx
  | counter => exact absurd (by assumption) hx
  | wake => exact absurd (by assumption) hx
  | await => exact absurd (by assumption) hx

/-- LOCKED is kept (R152). -/
theorem locked (h : Edited A s t) {x : Station} (hx : (s.supply x).state = .locked) : (t.supply x).state = .locked := by
  induction h with
  | supply st r _ _ c _ ih =>
    by_cases e : x = st
    · subst e; rw [State.supply_setSupply]; exact c ih
    · rw [State.supply_setSupply_of_ne _ e]; exact ih
  | session => assumption
  | device => assumption
  | due => assumption
  | owed => assumption
  | place => assumption
  | remove => assumption
  | note => assumption
  | result => assumption
  | owedText => assumption
  | owedTexts => assumption
  | counter => assumption
  | wake => assumption
  | await => assumption
  | refl => exact hx

/-- The rule of R152 is kept. -/
theorem lockedAtThree (h : Edited A s t) {x : Station} (hx : (s.supply x).lockedAtThree) :
    (t.supply x).lockedAtThree := by
  induction h with
  | supply st r _ _ _ c ih =>
    by_cases e : x = st
    · subst e; rw [State.supply_setSupply]; exact c ih
    · rw [State.supply_setSupply_of_ne _ e]; exact ih
  | session => assumption
  | device => assumption
  | due => assumption
  | owed => assumption
  | place => assumption
  | remove => assumption
  | note => assumption
  | result => assumption
  | owedText => assumption
  | owedTexts => assumption
  | counter => assumption
  | wake => assumption
  | await => assumption
  | refl => exact hx

/-- Restart counts stay within the limit in force (R116). -/
theorem restartCounts (h : Edited A s t) (hx : ∀ p, (s.device p).restartCount ≤ s.settings.restartLimit) :
    ∀ p, (t.device p).restartCount ≤ t.settings.restartLimit := by
  induction h with
  | device p d _ _ c ih =>
    intro x
    rw [State.device_setDevice_eq]
    split
    · exact c.elim (fun g => g.trans (ih p)) id
    · exact ih x
  | session => assumption
  | supply => assumption
  | due => assumption
  | owed => assumption
  | place => assumption
  | remove => assumption
  | note => assumption
  | result => assumption
  | owedText => assumption
  | owedTexts => assumption
  | counter => assumption
  | wake => assumption
  | await => assumption
  | refl => exact hx

end Edited

end Sys2Proof.Machine
end

