-- ==== Sys2Proof/Laws/PortEdits.lean ====
section
/-! SUPPORT. The operations on ports and device command queues are edits of the one device. -/

namespace Sys2Proof.Machine

variable {A : Scope} (s : State) (p : Port)

theorem edited_dueNow (h : A.port p) : Edited A s (s.dueNow p) := by
  unfold State.dueNow
  split
  · exact .refl
  all_goals exact .due _ _ .refl h

theorem edited_dueWithin (d : Nat) (h : A.port p) : Edited A s (s.dueWithin p d) := by
  unfold State.dueWithin
  split
  · exact .refl
  · exact edited_ite .refl (.due _ _ .refl h)
  · exact .due _ _ .refl h

theorem edited_dueAfterChange (h : A.port p) : Edited A s (s.dueAfterChange p) :=
  edited_ite (.due _ _ .refl h) (edited_ite (edited_dueNow s p h) (edited_dueWithin s p _ h))

theorem edited_dueAfterExchange (h : A.port p) : Edited A s (s.dueAfterExchange p) :=
  edited_ite (.due _ _ .refl h) (edited_ite (edited_dueNow s p h) (.due _ _ .refl h))

theorem edited_noteDevice (before after : PortState) (reason : DeviceReason) :
    Edited A s (s.noteDevice p before after reason) := by
  refine .note _ _ _ .refl rfl ?_
  intro x hx
  cases x <;> simp_all [Item.key]

/-- A device edit that keeps the restart count. -/
theorem edited_modifyDevice (f : Device → Device) (h : A.port p)
    (hf : (f (s.device p)).restartCount ≤ (s.device p).restartCount) : Edited A s (s.modifyDevice p f) :=
  .device p _ .refl h (.inl hf)

theorem edited_changePort (after : PortState) (reason : DeviceReason) (h : A.port p) :
    Edited A s (s.changePort p after reason) :=
  ((((edited_modifyDevice s p _ h (Nat.le_refl _)).trans (.owed p none .refl h)).trans
    (edited_dueAfterChange _ p h))).trans (edited_noteDevice _ p _ _ _)

/-- Accepting a command changes the queue and the follower alone. -/
theorem Device.accept_restartCount (d : Device) (q : Queued) : (d.accept q).1.restartCount = d.restartCount := by
  unfold Device.accept Device.follow
  repeat' split
  all_goals rfl

/-- Accepting a command leaves the port state. -/
theorem Device.accept_state (d : Device) (q : Queued) : (d.accept q).1.state = d.state := by
  unfold Device.accept Device.follow
  repeat' split
  all_goals rfl

theorem edited_queueCommand (q : Queued) (h : A.port p) : Edited A s (s.queueCommand p q) := by
  have e : Edited A s (s.setDevice p ((s.device p).accept q).1) :=
    .device p _ .refl h (.inl (Nat.le_of_eq (Device.accept_restartCount _ _)))
  exact edited_ite (edited_ite (e.trans (edited_dueNow _ p h)) e) .refl

theorem edited_textToFreeKeypad (st : Station) (t : Text) (h : A.port (keypadOf st)) :
    Edited A s (s.textToFreeKeypad st t) :=
  edited_ite (edited_queueCommand s _ _ h) .refl

end Sys2Proof.Machine
end

