-- ==== Sys2Proof/Laws/SessionEdits.lean ====
section
/-! SUPPORT. The operations of the session engine are edits of the one station. -/

namespace Sys2Proof.Machine

variable (s : State) (st : Station)

theorem Scope.at_station : (Scope.at st).station st := rfl
theorem Scope.at_keypad : (Scope.at st).port (keypadOf st) := stationOf_keypadOf st
theorem Scope.at_reader : (Scope.at st).port (readerOf st) := stationOf_readerOf st

theorem edited_modifySession (f : Session → Session) : Edited (.at st) s (s.modifySession st f) :=
  .session st _ .refl rfl

theorem edited_setRecord (r : Session) : Edited (.at st) s (s.setSession st r) := .session st _ .refl rfl

theorem edited_putProgress : Edited (.at st) s (s.putProgress st) := by
  unfold State.putProgress
  simp only
  split
  · exact .note _ _ _ .refl rfl (fun _ _ => rfl)
  · exact .refl

theorem edited_noteProgress : Edited (.at st) s (s.noteProgress st) := by
  unfold State.noteProgress
  split <;> first | exact edited_putProgress s st | exact .refl

theorem edited_noteCount : Edited (.at st) s (s.noteCount st) := by
  unfold State.noteCount
  split <;> first | exact edited_putProgress s st | exact .refl

theorem edited_sessionQueue (p : Port) (c : DeviceCommand) (h : (Scope.at st).port p) :
    Edited (.at st) s (s.sessionQueue st p c) := edited_queueCommand s p _ h

theorem edited_sessionAwait (p : Port) (c : DeviceCommand) (u : Purpose) (h : (Scope.at st).port p) :
    Edited (.at st) s (s.sessionAwait st p c u) :=
  edited_ite ((edited_queueCommand s p _ h).trans (edited_modifySession _ st _)) (edited_queueCommand s p _ h)

theorem edited_beep (k : BeepKind) : Edited (.at st) s (s.beep st k) :=
  edited_ite (edited_sessionQueue s st _ _ (Scope.at_keypad st)) .refl

theorem edited_sessionText (t : Text) : Edited (.at st) s (s.sessionText st t) :=
  edited_ite (edited_sessionQueue s st _ _ (Scope.at_keypad st)) .refl

theorem edited_windDown : Edited (.at st) s (s.windDown st) := by
  have one : ∀ t : State, Edited (.at st) s t → ∀ (c : Bool) (p : Port) (x : DeviceCommand) (f : Session → Session),
      (Scope.at st).port p →
      Edited (.at st) s (if c then (t.sessionAwait st p x .windDown).modifySession st f else t) :=
    fun t h c p x f hp =>
      edited_ite ((h.trans (edited_sessionAwait t st p x _ hp)).trans (edited_modifySession _ st f)) h
  have h1 := one s .refl (s.engaged (readerOf st) && (s.session st).readerIntake) (readerOf st) .intakeOff
    (fun r => { r with readerIntake := false }) (Scope.at_reader st)
  have h2 := fun t h c => one t h c (keypadOf st) .concealEnd
    (fun r => { r with concealedOpen := false }) (Scope.at_keypad st)
  unfold State.windDown
  have h3 := h2 _ h1
  exact edited_ite ((h3 _).trans (edited_sessionAwait _ st _ _ _ (Scope.at_keypad st))) (h3 _)

theorem edited_releasePort (p : Port) (h : (Scope.at st).port p) : Edited (.at st) s (s.releasePort p) :=
  edited_ite (edited_changePort s p _ _ h) .refl

theorem edited_settleTextOwed : Edited (.at st) s (s.settleTextOwed st) := by
  have e : Edited (.at st) s { s with textOwed := s.textOwed.set st.val none } := .owedText st none .refl rfl
  unfold State.settleTextOwed
  dsimp only
  split
  · exact edited_ite (e.trans (edited_queueCommand _ _ _ (Scope.at_keypad st))) e
  · exact e

/-- A station is owed no text once its session has returned to IDLE (R168, R180). -/
theorem State.settleTextOwed_textOwed : (s.settleTextOwed st).textOwed = s.textOwed.set st.val none := by
  unfold State.settleTextOwed State.queueCommand State.dueNow
  dsimp only
  repeat' split
  all_goals rfl

/-- What a station is owed (R168; row 7 of R180, log 27). -/
theorem State.owedText_eq_some {x : Text} : s.owedText st = some x ↔
    (s.textOwed[st.val] = some .idle ∧ s.counter = .opened ∧ x = s.idleText st)
      ∨ (s.textOwed[st.val] = some .closed ∧ s.counter = .orphaned ∧ x = s.closedText) := by
  unfold State.owedText
  split
  · rename_i a b
    simp [a, b, eq_comm]
  · rename_i a b
    simp [a, b, eq_comm]
  · rename_i a b
    constructor
    · intro h
      cases h
    · rintro (⟨c, d, -⟩ | ⟨c, d, -⟩)
      · exact (a c d).elim
      · exact (b c d).elim

theorem edited_completeEnding : Edited (.at st) s (s.completeEnding st) := by
  have h : ∀ t : State, Edited (.at st) s t →
      Edited (.at st) s
        ((((t.releasePort (readerOf st)).releasePort (keypadOf st)).modifySession st Session.ended).settleTextOwed st) :=
    fun t e => (((e.trans (edited_releasePort t st _ (Scope.at_reader st))).trans
      (edited_releasePort _ st _ (Scope.at_keypad st))).trans (edited_modifySession _ st _)).trans
        (edited_settleTextOwed _ st)
  unfold State.completeEnding
  simp only
  split
  · exact h _ (.result _ .refl rfl rfl)
  · exact h _ .refl

theorem edited_tryComplete : Edited (.at st) s (s.tryComplete st) := edited_ite (edited_completeEnding s st) .refl

theorem edited_removeSessionDeadlines : Edited (.at st) s (s.removeSessionDeadlines st) :=
  .remove _ _ (.remove _ _ (.remove _ _ .refl rfl) rfl) rfl

theorem edited_enterEnding (cause : EndCause) : Edited (.at st) s (s.enterEnding st cause) :=
  (((edited_modifySession s st _).trans (edited_removeSessionDeadlines _ st)).trans (edited_windDown _ st)).trans
    (edited_tryComplete _ st)

theorem edited_placeResult (r : StepResult) : Edited (.at st) s (s.placeResult st r) :=
  (Edited.result _ .refl rfl rfl).trans (edited_modifySession _ st _)

theorem edited_offerResult (r : StepResult) : Edited (.at st) s (s.offerResult st r) :=
  edited_ite (edited_modifySession s st _) (edited_placeResult s st r)

theorem edited_deliver (data : ResultData) : Edited (.at st) s (s.deliver st data) := by
  have e := ((edited_removeSessionDeadlines s st).trans
    (edited_modifySession _ st fun r => { r with phase := some .delivering })).trans (edited_noteProgress _ st)
  unfold State.deliver
  simp only
  split
  · exact e.trans (edited_offerResult _ st _)
  · exact e

theorem edited_placePending : Edited (.at st) s (s.placePending st) := by
  unfold State.placePending
  split
  · exact edited_ite .refl (edited_placeResult s st _)
  · exact .refl

theorem edited_queueSetup (x : StepRecord) : Edited (.at st) s (s.queueSetup st x) := by
  unfold State.queueSetup
  simp only
  split
  · have e := (edited_sessionAwait s st (readerOf st) .intakeOn .setup (Scope.at_reader st)).trans
      (edited_modifySession _ st fun r => { r with readerIntake := true })
    exact edited_ite (e.trans (edited_sessionAwait _ st _ _ _ (Scope.at_keypad st))) e
  · exact edited_sessionAwait s st _ _ _ (Scope.at_keypad st)
  · exact ((edited_sessionAwait s st _ _ _ (Scope.at_keypad st)).trans
      (edited_sessionAwait _ st _ _ _ (Scope.at_keypad st))).trans (edited_modifySession _ st _)
  · exact edited_ite .refl (edited_sessionAwait s st _ _ _ (Scope.at_keypad st))
  · exact edited_sessionAwait s st _ _ _ (Scope.at_keypad st)

theorem edited_placeStepDeadlines (k : StepKind) : Edited (.at st) s (s.placeStepDeadlines st k) := by
  have e : Edited (.at st) s (s.placeDeadline (.session st) .step (k.time * Config.ticksPerTenth)) :=
    .place _ _ _ .refl rfl
  have f := edited_ite (c := (!k.isShow && s.settings.warnLead != 0 && s.settings.warnLead < k.time) = true)
    (e.trans (.place (.session st) .warn (ahead s.tick ((k.time - s.settings.warnLead) * Config.ticksPerTenth)) .refl rfl)) e
  exact edited_ite f (f.trans (.place _ _ _ .refl rfl))

theorem edited_endStarting : Edited (.at st) s (s.endStarting st) := by
  unfold State.endStarting
  split
  · exact .refl
  · exact ((edited_placeStepDeadlines s st _).trans (edited_modifySession _ st _)).trans (edited_noteProgress _ st)

theorem edited_enterStarting (i : Nat) : Edited (.at st) s (s.enterStarting st i) := by
  have e := (edited_modifySession s st (Session.toStarting i)).trans (edited_noteProgress _ st)
  unfold State.enterStarting
  simp only
  split
  · exact e
  · exact edited_ite (e.trans (edited_enterEnding _ st _))
      (edited_ite ((e.trans (edited_queueSetup _ st _)).trans (edited_endStarting _ st))
        (e.trans (edited_queueSetup _ st _)))

theorem edited_sessionTold (serial : Nat) (u : Purpose) (p : Port) (c : CommandClass) :
    Edited (.at st) s (s.sessionTold st serial u p c) := by
  have e := edited_modifySession s st (Session.waitDone p c)
  unfold State.sessionTold
  simp only
  split
  · exact .refl
  · split
    · exact edited_ite (edited_ite (e.trans (edited_endStarting _ st)) e) .refl
    · exact edited_ite (e.trans (edited_tryComplete _ st)) .refl
    · exact .refl

theorem edited_statusToSession (p : Port) (d : DeviceStatus) :
    Edited (.at (stationOf p)) s (s.statusToSession p d) := by
  unfold State.statusToSession
  simp only
  split
  · split
    · exact edited_ite ((edited_modifySession s _ _).trans (edited_noteProgress _ _)) .refl
    · exact .refl
  · exact .refl

theorem edited_endDelivering : Edited (.at st) s (s.endDelivering st) := by
  unfold State.endDelivering
  simp only
  split
  · exact edited_enterEnding s st _
  · split
    · exact edited_enterEnding s st _
    · exact edited_ite (edited_enterEnding s st _) (edited_enterStarting s st _)

theorem edited_resultLeft : Edited (.at st) s (s.resultLeft st) := edited_ite (edited_endDelivering s st) .refl

theorem edited_stationLineFree : Edited (.at st) s (s.stationLineFree st) :=
  (edited_placePending s st).trans (edited_tryComplete _ st)

theorem edited_sessionLoss (p : Port) : Edited (.at (stationOf p)) s (s.sessionLoss p) := by
  unfold State.sessionLoss
  simp only
  split
  · exact edited_ite .refl (edited_modifySession s _ _)
  · exact edited_enterEnding s _ _
  · exact (edited_modifySession s _ _).trans (edited_tryComplete _ _)
  · exact .refl

theorem edited_loseWorkstation : Edited .noSupply s s.loseWorkstation :=
  edited_forStations fun st s =>
    edited_ite ((edited_enterEnding s st _).mono (Scope.at_within_noSupply st)) .refl

/-! ### Keys -/

theorem edited_acceptKey (k : StepKind) : Edited (.at st) s (s.acceptKey st k) :=
  edited_ite ((edited_modifySession s st _).trans (.remove _ _ .refl rfl))
    ((edited_modifySession s st _).trans (.place _ _ _ .refl rfl))

theorem edited_changeBuffer (x : StepRecord) (b : Digits) : Edited (.at st) s (s.changeBuffer st x b) :=
  (((edited_modifySession s st _).trans (edited_acceptKey _ st _)).trans (edited_sessionText _ st _)).trans
    (edited_noteCount _ st)

theorem edited_plainKey (x : StepRecord) (lo hi : Nat) (key : Key) :
    Edited (.at st) s (s.plainKey st x lo hi key) := by
  unfold State.plainKey
  simp only
  split
  · exact edited_ite (edited_changeBuffer s st _ _) (edited_beep s st _)
  · exact edited_ite (edited_beep s st _) (edited_changeBuffer s st _ _)
  · exact edited_ite (edited_deliver s st _) (edited_beep s st _)
  · exact edited_enterEnding s st _
  · exact edited_beep s st _

theorem edited_confirmKey (key : Key) : Edited (.at st) s (s.confirmKey st key) := by
  unfold State.confirmKey
  split
  · exact edited_deliver s st _
  · exact edited_enterEnding s st _
  all_goals exact edited_beep s st _

theorem edited_activeKey (x : StepRecord) (key : Key) {t : State} (h : s.activeKey st x key = some t) :
    Edited (.at st) s t := by
  obtain ⟨prompt, kind⟩ := x
  have go : ∀ {u : State}, Edited (.at st) s u → some u = some t → Edited (.at st) s t :=
    fun e h => Option.some.inj h ▸ e
  cases kind with
  | card => exact go (edited_ite (edited_enterEnding s st _) .refl) h
  | confirm => exact go (edited_confirmKey s st _) h
  | showText => exact go .refl h
  | entry mode =>
    cases mode with
    | plain => exact go (edited_plainKey s st _ _ _ _) h
    | concealed =>
      cases key with
      | cancel => exact go (edited_enterEnding s st _) h
      | call => exact go (edited_beep s st _) h
      | digit => exact nomatch (show (none : Option State) = some t from h)
      | enter => exact nomatch (show (none : Option State) = some t from h)
      | clear => exact nomatch (show (none : Option State) = some t from h)

theorem edited_sessionKey (key : Key) {t : State} (h : s.sessionKey st key = some t) : Edited (.at st) s t := by
  unfold State.sessionKey at h
  simp only at h
  split at h
  · exact edited_activeKey s st _ _ h
  · injection h with h
    subst h
    exact edited_ite (edited_enterEnding s st _) .refl
  · injection h with h
    subst h
    exact .refl

theorem edited_takeCount (k : StepKind) (n : Nat) : Edited (.at st) s (s.takeCount st k n) := by
  unfold State.takeCount
  have e := edited_modifySession s st fun r => { r with concealedCount := n }
  have f := edited_ite (c := n = 0 ∧ (s.session st).firstKeyTaken = false) e (e.trans (edited_acceptKey _ st k))
  exact edited_ite f (f.trans (edited_noteCount _ st))

theorem edited_sessionCount (n : Nat) {t : State} (h : s.sessionCount st n = some t) : Edited (.at st) s t := by
  unfold State.sessionCount at h
  simp only at h
  split at h
  · injection h with h; subst h; exact .refl
  · split at h
    · injection h with h; subst h; exact edited_takeCount s st _ _
    · cases h

theorem edited_sessionSealed (n : Nat) (b : List Byte) {t : State} (h : s.sessionSealed st n b = some t) :
    Edited (.at st) s t := by
  unfold State.sessionSealed at h
  simp only at h
  split at h
  · injection h with h; subst h; exact .refl
  · split at h
    · injection h with h; subst h; exact (edited_modifySession s st _).trans (edited_deliver _ st _)
    · cases h

/-! ### Reader events -/

theorem edited_readError (n : Nat) : Edited (.at st) s (s.readError st n) := by
  unfold State.readError
  have e := edited_modifySession s st fun r => { r with attemptsUsed := r.attemptsUsed + 1 }
  exact edited_ite
    ((((e.trans (edited_modifySession _ st _)).trans (edited_noteCount _ st)).trans (edited_beep _ st _)).trans
      (edited_sessionText _ st _)) (e.trans (edited_enterEnding _ st _))

theorem edited_stopIntake : Edited (.at st) s (s.stopIntake st) :=
  (edited_sessionQueue s st _ _ (Scope.at_reader st)).trans (edited_modifySession _ st _)

theorem edited_takeTrack (n : Nat) (chars : List Nat) (check : Nat) :
    Edited (.at st) s (s.takeTrack st n chars check) := by
  unfold State.takeTrack
  split
  · exact edited_readError s st _
  · exact ((edited_stopIntake s st).trans (edited_modifySession _ st _)).trans (edited_deliver _ st _)
  · exact ((edited_stopIntake s st).trans (edited_modifySession _ st _)).trans (edited_deliver _ st _)

theorem edited_sessionReader (e : Event) : Edited (.at st) s (s.sessionReader st e) := by
  unfold State.sessionReader
  simp only
  split
  · split
    · exact edited_takeTrack s st _ _ _
    · exact edited_readError s st _
    · exact (edited_modifySession s st _).trans (edited_sessionText _ st _)
    · exact .refl
  · exact .refl

end Sys2Proof.Machine
end

