-- ==== Sys2Proof/Laws/BlockEdits.lean ====
section
/-! SUPPORT. The operations of the counter controller, the port manager and the supply monitor are edits. -/

namespace Sys2Proof.Machine

variable (s : State) (st : Station) (p : Port) {A : Scope}

/-! ### The counter controller -/

theorem edited_noteCounter (before after : CounterState) (reason : CounterReason) :
    Edited A s (s.noteCounter before after reason) := by
  refine .note _ _ _ .refl rfl ?_
  intro x hx
  cases x <;> simp_all [Item.key]

theorem edited_changeCounter (after : CounterState) (reason : CounterReason) (h : A.counter) :
    Edited A s (s.changeCounter after reason) :=
  (Edited.counter after .refl h).trans (edited_noteCounter _ _ _ _)

theorem edited_placeSupervision (h : A.counter) : Edited A s s.placeSupervision := .place _ _ _ .refl h
theorem edited_removeSupervision (h : A.counter) : Edited A s s.removeSupervision := .remove _ _ .refl h
theorem edited_removeSettle (h : A.counter) : Edited A s s.removeSettle := .remove _ _ .refl h

theorem edited_openFromStarting (reason : CounterReason) (h : A.counter) :
    Edited A s (s.openFromStarting reason) :=
  .await _ ((edited_changeCounter s _ _ h).trans (edited_removeSettle _ h)) h

theorem edited_openIfProbed (h : A.counter) : Edited A s s.openIfProbed :=
  edited_ite (edited_openFromStarting s _ h) .refl

theorem edited_leaveAwaiting (h : A.counter) : Edited A s (s.leaveAwaiting p) := by
  unfold State.leaveAwaiting
  exact edited_ite ((Edited.await _ .refl h).trans (edited_openIfProbed _ h)) .refl

theorem edited_leaveAwaitingStation (h : A.counter) : Edited A s (s.leaveAwaitingStation st) := by
  unfold State.leaveAwaitingStation
  exact edited_ite ((Edited.await _ .refl h).trans (edited_openIfProbed _ h)) .refl

theorem edited_dozeDevices : Edited .devices s s.dozeDevices :=
  edited_forPorts fun p s => edited_ite (edited_queueCommand s p _ trivial) .refl

theorem edited_wakeDevices : Edited .devices s s.wakeDevices :=
  edited_forPorts fun p s => edited_ite (edited_queueCommand s p _ trivial) .refl

theorem edited_enterWaking (cause : WakeCause) (reason : CounterReason) (h : A.counter) :
    Edited A s (s.enterWaking cause reason) :=
  ((Edited.place .counter .settle _ (.wake cause .refl h) h).trans (edited_placeSupervision _ h)).trans
    (edited_changeCounter _ _ _ h)

theorem edited_wake (cause : WakeCause) : Edited .devices s (s.wake cause) :=
  (edited_enterWaking s cause _ trivial).trans (edited_wakeDevices _)

theorem edited_offerWake (k : WakeKind) : Edited .devices s (s.offerWake st k) := edited_ite (edited_wake s _) .refl

theorem edited_settleComplete (h : A.counter) : Edited A s s.settleComplete := edited_changeCounter s _ _ h

/-- The stations that are owed the closed text as the workstation is lost (row 7 of R180, log 27). -/
theorem State.orphanTexts_textOwed (st : Station) : s.orphanTexts.textOwed[st.val] =
    if s.textOwed[st.val] = some .idle ∧ (s.device (keypadOf st)).state = .engaged then some .closed else none := by
  simp [State.orphanTexts]

theorem edited_enterOrphaned : Edited .noSupply s s.enterOrphaned := by
  have e : Edited .noSupply s
      ((s.removeSettle.clearAwaiting.orphanTexts).changeCounter .orphaned .supervisionExpired) :=
    (Edited.owedTexts _ (.await _ (edited_removeSettle s trivial) trivial) trivial).trans
      (edited_changeCounter _ _ _ trivial)
  exact (e.trans (edited_loseWorkstation _)).trans
    (edited_forStations fun st s => edited_textToFreeKeypad s st _ trivial)

theorem edited_reopen : Edited .noSupply s s.reopen := by
  have e : Edited .noSupply s (s.changeCounter .opened .reopened).placeSupervision :=
    (edited_changeCounter s _ _ trivial).trans (edited_placeSupervision _ trivial)
  have f := e.trans (edited_forStations fun st s => edited_textToFreeKeypad s st (s.idleText st) trivial)
  exact f.trans (edited_forStations fun st s => edited_ite (.owedText st _ .refl trivial) .refl)

/-! ### The port manager -/

theorem edited_hold (why : HeldReason) (reason : DeviceReason) (h : A.port p) :
    Edited A s (s.hold p why reason) :=
  (edited_modifyDevice s p _ h (Nat.le_refl _)).trans (edited_changePort _ p _ _ h)

theorem edited_askReset (h : A.port p) : Edited A s (s.askReset p) :=
  ((Edited.owed p _ .refl h).trans (edited_dueNow _ p h)).trans (.place _ _ _ .refl h)

/-- A restart counted below the limit stays within it. -/
theorem edited_countRestart (h : A.port p) (g : (s.device p).restartCount < s.settings.restartLimit) :
    Edited A s (s.modifyDevice p fun d => { d with restartCount := d.restartCount + 1 }) :=
  .device p _ .refl h (.inr g)

theorem edited_restartOnFault (reason : DeviceReason) (h : A.port p) : Edited A s (s.restartOnFault p reason) := by
  unfold State.restartOnFault
  split
  · rename_i g
    exact ((edited_countRestart s p h g).trans (edited_changePort _ p _ _ h)).trans (edited_askReset _ p h)
  · exact edited_hold s p _ _ h

theorem edited_restartAgain (h : A.port p) : Edited A s (s.restartAgain p) := by
  unfold State.restartAgain
  split
  · rename_i g
    exact (edited_countRestart s p h g).trans (edited_askReset _ p h)
  · exact edited_hold s p _ _ h

theorem edited_deviceFault (f : LastFault) : Edited (.at (stationOf p)) s (s.deviceFault p f) := by
  have e := ((edited_modifyDevice s p (fun d => { d.emptyQueue with lastFault := some f, missRun := 0 })
    (show (Scope.at (stationOf p)).port p from rfl) (Nat.le_refl _)).trans (.remove (.device p) .device .refl rfl)).trans
      (edited_restartOnFault _ p f.reason rfl)
  exact edited_ite (e.trans (edited_sessionLoss _ p)) e

theorem edited_enterJoining (d : DeviceStatus) : Edited .devices s (s.enterJoining p d) := by
  have e := (((edited_modifyDevice (A := .devices) s p (fun x => { x with missRun := 0, status := some d }) trivial
    (Nat.le_refl _)).trans (edited_changePort _ p .joining .probed trivial)).trans
      (.owed p (some .identify) .refl trivial)).trans (edited_dueNow _ p trivial)
  exact (edited_ite (e.trans (edited_offerWake _ _ _)) e).trans (edited_leaveAwaiting _ p trivial)

theorem edited_restartAnswered (d : DeviceStatus) : Edited .devices s (s.restartAnswered p d) :=
  (edited_removeDeadline (A := .devices) s (.device p) .device trivial).trans (edited_enterJoining _ p d)

theorem edited_identified (d : DeviceStatus) (i : Identity) (h : A.port p) :
    Edited A s (s.identified p d i) := by
  have e := edited_modifyDevice s p (fun x => { x with status := some d, identity := some i.stored }) h (Nat.le_refl _)
  exact edited_ite ((e.trans (.owed p _ .refl h)).trans (edited_dueNow _ p h)) (e.trans (edited_hold _ p _ _ h))

theorem edited_mendPower (dozed : Bool) (h : A.port p) : Edited A s (s.mendPower p dozed) :=
  edited_ite (edited_queueCommand s p _ h) (edited_ite (edited_queueCommand s p _ h) .refl)

theorem edited_configured (d : DeviceStatus) (dozed : Bool) (h : A.port p) :
    Edited A s (s.configured p d dozed) := by
  have e := (((edited_modifyDevice s p (fun x => { x with status := some d, batchToggle := false, commandToggle := false })
    h (Nat.le_refl _)).trans (edited_changePort _ p (if dozed then .dozing else .ready) .joined h)).trans
      (edited_modifyDevice _ p (fun x => { x with missRun := 0 }) h (Nat.le_refl _))).trans
        (edited_placeDeadline _ (.device p) .device Config.cleanPeriod h)
  exact (edited_ite (e.trans (edited_queueCommand _ p _ h)) e).trans (edited_mendPower _ p _ h)

theorem edited_missTaken : Edited (.at (stationOf p)) s (s.missTaken p) := by
  unfold State.missTaken
  split
  · exact (edited_modifyDevice s p _ rfl (Nat.le_refl _)).trans (edited_changePort _ p _ _ rfl)
  all_goals first
    | exact .refl
    | exact edited_ite (edited_modifyDevice s p _ rfl (Nat.le_refl _)) (edited_deviceFault s p _)

theorem edited_portPowerLost : Edited (.at (stationOf p)) s (s.portPowerLost p) := by
  have e := ((edited_modifyDevice s p
    (fun d => { d.emptyQueue with missRun := 0, identity := none, status := none, heldReason := none })
    (show (Scope.at (stationOf p)).port p from rfl) (Nat.le_refl _)).trans (.remove (.device p) .device .refl rfl)).trans
      (edited_changePort _ p .unpowered .powerLost rfl)
  exact edited_ite .refl (edited_ite (e.trans (edited_sessionLoss _ p)) e)

theorem edited_powerLost : Edited (.at st) s (s.powerLost st) := by
  have h1 := edited_portPowerLost s (readerOf st)
  have h2 := edited_portPowerLost (s.portPowerLost (readerOf st)) (keypadOf st)
  rw [stationOf_readerOf] at h1
  rw [stationOf_keypadOf] at h2
  exact h1.trans h2

theorem edited_portPowerRestored (h : A.port p) : Edited A s (s.portPowerRestored p) :=
  edited_ite ((edited_changePort s p _ _ h).trans (edited_dueNow _ p h)) .refl

theorem edited_powerRestored : Edited (.at st) s (s.powerRestored st) :=
  (edited_portPowerRestored s _ (Scope.at_reader st)).trans (edited_portPowerRestored _ _ (Scope.at_keypad st))

theorem edited_engage (h : A.port p) : Edited A s (s.engage p) := edited_changePort s p _ _ h

theorem edited_noteCall : Edited A s (s.noteCall st) := by
  refine .note _ _ _ .refl rfl ?_
  intro x hx
  cases x <;> simp_all [Item.key]

theorem edited_sessionEvent (e : Event) {t : State} (h : s.sessionEvent st e = some t) : Edited (.at st) s t := by
  unfold State.sessionEvent at h
  cases e with
  | key k => exact edited_sessionKey s st k h
  | count n => exact edited_sessionCount s st n h
  | sealedBlock n b => exact edited_sessionSealed s st n b h
  | cardIn => exact Option.some.inj h ▸ edited_sessionReader s st _
  | track c k => exact Option.some.inj h ▸ edited_sessionReader s st _
  | trackError k => exact Option.some.inj h ▸ edited_sessionReader s st _
  | cardOut => exact Option.some.inj h ▸ edited_sessionReader s st _
  | fault c => exact Option.some.inj h ▸ edited_sessionReader s st _
  | unknown => exact Option.some.inj h ▸ edited_sessionReader s st _

theorem edited_freeEvent (e : Event) : Edited .devices s (s.freeEvent st e) := by
  unfold State.freeEvent
  split
  · exact edited_ite (edited_noteCall s st) (edited_offerWake s st _)
  · exact edited_offerWake s st _
  · exact edited_offerWake s st _
  all_goals exact .refl

theorem edited_recordTrackError (e : Event) (h : A.port p) : Edited A s (s.recordTrackError p e) := by
  unfold State.recordTrackError
  split
  · exact edited_modifyDevice s p _ h (Nat.le_refl _)
  · exact .refl

theorem edited_takeEvent (e : Event) : Edited (.exchange (stationOf p)) s (s.takeEvent p e) := by
  have w := Scope.at_within_exchange (stationOf p)
  unfold State.takeEvent
  split
  · exact .refl
  · split
    · exact (edited_deviceFault s p _).mono w
    · split
      · exact (edited_deviceFault s p _).mono w
      · have r := edited_recordTrackError (A := .exchange (stationOf p)) s p e trivial
        simp only
        split
        · cases hx : (s.recordTrackError p e).sessionEvent (stationOf p) e with
          | none => exact r.trans ((edited_deviceFault _ p _).mono w)
          | some t => exact r.trans ((edited_sessionEvent _ _ e hx).mono w)
        · exact r.trans ((edited_freeEvent _ _ e).mono (Scope.devices_within_exchange _))

theorem edited_powerTaken (c : DeviceCommand) (h : A.port p) : Edited A s (s.powerTaken p c) := by
  unfold State.powerTaken
  split <;> first | exact edited_changePort s p _ _ h | exact .refl

theorem edited_tellRequester (q : Queued) : Edited .noSupply s (s.tellRequester p q) := by
  unfold State.tellRequester
  split
  · exact (edited_sessionTold s _ _ _ _ _).mono (Scope.at_within_noSupply _)
  all_goals exact .refl

theorem edited_commandTaken : Edited .noSupply s (s.commandTaken p) := by
  unfold State.commandTaken
  split
  · exact .refl
  · rename_i q rest _
    exact ((edited_modifyDevice s p (fun d => d.headTaken rest) trivial (Nat.le_refl _)).trans
      (edited_powerTaken _ p _ trivial)).trans (edited_tellRequester _ p q)

theorem edited_judgeTaken (carried taken : Bool) : Edited .noSupply s (s.judgeTaken p carried taken) :=
  edited_ite (edited_ite (edited_commandTaken s p) ((edited_deviceFault s p _).mono (Scope.at_within_noSupply _))) .refl

theorem edited_dozeCheck (x : DeviceStatus) : Edited (.at (stationOf p)) s (s.dozeCheck p x) :=
  edited_ite (edited_deviceFault s p _) .refl

theorem edited_statusChecks (x : DeviceStatus) : Edited (.at (stationOf p)) s (s.statusChecks p x) :=
  edited_ite ((edited_statusToSession s p x).trans (edited_dozeCheck _ p x)) .refl

theorem edited_recordStatus (x : DeviceStatus) (h : A.port p) : Edited A s (s.recordStatus p x) :=
  edited_modifyDevice s p _ h (Nat.le_refl _)

theorem edited_takeEvents (l : List Event) :
    Edited (.exchange (stationOf p)) s (l.foldl (fun s e => s.takeEvent p e) s) := by
  induction l generalizing s with
  | nil => exact .refl
  | cons e l ih => exact (edited_takeEvent s p e).trans (ih _)

theorem edited_takeBatch (batch : Bool) (l : List Event) :
    Edited (.exchange (stationOf p)) s (s.takeBatch p batch l) :=
  edited_ite .refl ((edited_modifyDevice s p _ trivial (Nat.le_refl _)).trans (edited_takeEvents _ p l))

theorem edited_takePoll (carried : Bool) (a : Answer) : Edited .noSupply s (s.takePoll p carried a) := by
  have e := (((edited_recordStatus (A := .noSupply) s p a.status trivial).trans
    ((edited_takeBatch _ p a.batch a.contents.eventList).mono (Scope.exchange_within_noSupply _))).trans
      (edited_judgeTaken _ p carried a.taken)).trans
        ((edited_statusChecks _ p a.status).mono (Scope.at_within_noSupply _))
  exact edited_ite (e.trans (edited_dueNow _ p trivial)) e

/-- An answer to any request but a POLL reaches the device's own station, the devices and the counter. -/
theorem edited_answerTaken_exchange (f : Flight) (a : Answer) (h : f.request ≠ .poll) :
    Edited (.exchange (stationOf f.port)) s (s.answerTaken f a) := by
  have w := Scope.devices_within_exchange (stationOf f.port)
  unfold State.answerTaken
  simp only
  split
  · exact .refl
  · exact .refl
  · exact (edited_enterJoining s _ _).mono w
  · exact (edited_restartAnswered s _ _).mono w
  · split
    · exact edited_identified s _ _ _ trivial
    · exact edited_configured s _ _ _ trivial
    · exact edited_modifyDevice s _ _ trivial (Nat.le_refl _)
  all_goals
    rw [if_neg h]
    exact (edited_recordStatus s _ _ trivial).trans
      ((edited_dozeCheck _ _ _).mono (Scope.at_within_exchange _))

theorem edited_answerTaken (f : Flight) (a : Answer) : Edited .noSupply s (s.answerTaken f a) := by
  by_cases h : f.request = .poll
  · unfold State.answerTaken
    simp only
    split
    · exact .refl
    · exact .refl
    · exact (edited_enterJoining s _ _).mono Scope.devices_within_noSupply
    · exact (edited_restartAnswered s _ _).mono Scope.devices_within_noSupply
    · split
      · exact edited_identified s _ _ _ trivial
      · exact edited_configured s _ _ _ trivial
      · exact edited_modifyDevice s _ _ trivial (Nat.le_refl _)
    all_goals
      rw [if_pos h]
      exact edited_takePoll s _ _ _
  · exact (edited_answerTaken_exchange s f a h).mono (Scope.exchange_within_noSupply _)

theorem edited_reportProbe (f : Flight) (h : A.counter) : Edited A s (s.reportProbe f) :=
  edited_ite (edited_leaveAwaiting s _ h) .refl

/-! ### The supply monitor -/

theorem edited_noteSupply (before : SupplyState) (reason : SupplyReason) :
    Edited A s (s.noteSupply st before reason) := by
  refine .note _ _ _ .refl rfl ?_
  intro x hx
  cases x <;> simp_all [Item.key]

theorem edited_hastenProbe (h : A.port p) : Edited A s (s.hastenProbe p) :=
  edited_ite (edited_dueWithin s p _ h) .refl

/-- A supply edit that keeps state and trip count. -/
theorem edited_modifySupply (f : Supply → Supply) (h : A.supply st) (hs : (f (s.supply st)).state = (s.supply st).state)
    (ht : (f (s.supply st)).tripCount = (s.supply st).tripCount) : Edited A s (s.modifySupply st f) :=
  .supply st _ .refl h (fun e => hs.trans e) (fun e => by unfold Supply.lockedAtThree at *; rw [hs, ht]; exact e)

theorem edited_setDraw (draw : Bool) : Edited (.power st) s (s.setDraw st draw) := by
  have e := edited_modifySupply (A := .power st) s st (fun r => { r with draw := draw }) rfl rfl rfl
  exact edited_ite ((e.trans (edited_hastenProbe _ _ (stationOf_readerOf st))).trans
    (edited_hastenProbe _ _ (stationOf_keypadOf st))) e

/-- Setting draw changes nothing else of the supply. -/
theorem State.setDraw_supply (draw : Bool) :
    (s.setDraw st draw).supply st = { s.supply st with draw := draw } := by
  have h : ∀ (t : State) (q : Port), (t.hastenProbe q).supply st = t.supply st := fun t q =>
    (edited_hastenProbe (A := .device q) t q rfl).supply_eq (fun h => h)
  unfold State.setDraw
  simp only
  split
  · rw [h, h]; simp [State.modifySupply]
  · simp [State.modifySupply]

@[simp] theorem State.setDraw_state (draw : Bool) : ((s.setDraw st draw).supply st).state = (s.supply st).state := by
  rw [State.setDraw_supply]

@[simp] theorem State.setDraw_tripCount (draw : Bool) :
    ((s.setDraw st draw).supply st).tripCount = (s.supply st).tripCount := by
  rw [State.setDraw_supply]

/-- A supply enters TRIAL from a state other than LOCKED. -/
theorem edited_enterTrial (reason : SupplyReason) (h : (s.supply st).state ≠ .locked) :
    Edited (.power st) s (s.enterTrial st reason) := by
  have e : Edited (.power st) s (s.modifySupply st fun r => { r with state := .trial, overRun := 0 }) := by
    refine .supply st _ .refl rfl (fun g => absurd g h) ?_
    intro g
    refine ⟨⟨fun x => by simp at x, fun x => ?_⟩, g.2⟩
    exact absurd (g.1.mpr x) h
  exact ((e.trans (edited_setDraw _ st false)).trans (edited_placeDeadline _ (.supply st) .supply _ rfl)).trans (edited_noteSupply _ st _ _)

theorem Supply.tripped_lockedAtThree (r : Supply) (h : r.state ≠ .locked) (g : r.lockedAtThree) :
    r.tripped.lockedAtThree := by
  have n : r.tripCount ≠ 3 := fun e => h (g.1.mpr e)
  have l := g.2
  unfold Supply.tripped Supply.lockedAtThree
  simp only [Config.tripLimit]
  constructor
  · by_cases e : r.tripCount + 1 = 3 <;> simp [e]
  · omega

/-- A trip of a supply that is not LOCKED. -/
theorem edited_trip (h : (s.supply st).state ≠ .locked) : Edited (.power st) s (s.trip st) := by
  have e : Edited (.power st) s
      (((s.removeDeadline (.supply st) .supply).setDraw st false).modifySupply st Supply.tripped) := by
    refine .supply st _ ((edited_removeDeadline (A := .power st) s (.supply st) .supply rfl).trans (edited_setDraw _ st false)) rfl ?_ ?_
    · intro g; simp at g; exact absurd g h
    · intro g
      exact Supply.tripped_lockedAtThree _ (by simpa using h) g
  unfold State.trip
  simp only
  generalize ((s.removeDeadline (.supply st) .supply).setDraw st false).modifySupply st Supply.tripped = t at e
  have e2 := edited_ite (c := ((t.supply st).state == SupplyState.locked) = true) e
    (e.trans (edited_placeDeadline t (.supply st) .supply Config.coolTime rfl))
  have e3 := e2.trans (edited_noteSupply _ st (s.supply st).state .tripped)
  have e4 := edited_ite (c := (s.supply st).state = .on)
    (e3.trans ((edited_powerLost _ st).mono (Scope.at_within_power st))) e3
  exact edited_ite (e4.trans (edited_leaveAwaitingStation _ st trivial)) e4

/-- A supply that is not LOCKED switched off. -/
theorem edited_switchOff (held : Bool) (reason : SupplyReason) (h : (s.supply st).state ≠ .locked) :
    Edited (.power st) s (s.switchOff st held reason) := by
  have e : Edited (.power st) s
      (((s.removeDeadline (.supply st) .supply).setDraw st false).modifySupply st fun r =>
        { r with state := .off, overRun := 0, heldOff := held }) := by
    refine .supply st _ ((edited_removeDeadline (A := .power st) s (.supply st) .supply rfl).trans (edited_setDraw _ st false)) rfl ?_ ?_
    · intro g; simp at g; exact absurd g h
    · intro g
      refine ⟨⟨fun x => by simp at x, fun x => ?_⟩, g.2⟩
      have := g.1.mpr x
      simp at this
      exact absurd this h
  have e3 := e.trans (edited_noteSupply _ st (s.supply st).state reason)
  exact (edited_ite (e3.trans ((edited_powerLost _ st).mono (Scope.at_within_power st))) e3).trans
    (edited_leaveAwaitingStation _ st trivial)

theorem edited_startSupplies (reason : SupplyReason) : Edited .all s (s.startSupplies reason) :=
  edited_forStations fun st s => by
    split
    · rename_i h
      exact (edited_enterTrial s st _ (by rw [h.1]; decide)).mono (Scope.power_within_all st)
    · exact .refl

theorem edited_closeSupplies : Edited .all s s.closeSupplies :=
  edited_forStations fun st s => by
    split
    · rename_i h
      exact (edited_switchOff s st _ _ (fun e => by rw [e] at h; simp [SupplyState.switchable] at h)).mono
        (Scope.power_within_all st)
    · exact .refl

/-- A sample of a supply that is not LOCKED. -/
theorem edited_takeSample (c : SenseCode) (h : (s.supply st).state ≠ .locked) :
    Edited (.power st) s (s.takeSample st c) := by
  have e := (edited_modifySupply (A := .power st) s st (fun r => { r with lastSample := some c }) rfl rfl rfl).trans
    (edited_setDraw _ st (decide (s.settings.lowThreshold ≤ milliamps c)))
  have n : (((s.modifySupply st fun r => { r with lastSample := some c }).setDraw st
      (decide (s.settings.lowThreshold ≤ milliamps c))).supply st).state ≠ .locked := by
    rw [State.setDraw_state]
    simpa [State.modifySupply] using h
  exact e.trans (edited_ite (edited_modifySupply _ st _ rfl rfl rfl)
    (edited_ite (edited_modifySupply _ st _ rfl rfl rfl) (edited_trip _ st n)))

theorem edited_trialOver (h : (s.supply st).state = .trial) : Edited (.power st) s (s.trialOver st) := by
  have e : Edited (.power st) s (s.modifySupply st fun r => { r with state := .on }) := by
    refine .supply st _ .refl rfl (fun g => by rw [h] at g; cases g) ?_
    intro g
    refine ⟨⟨fun x => by simp at x, fun x => ?_⟩, g.2⟩
    have := g.1.mpr x
    rw [h] at this
    cases this
  exact ((e.trans (edited_placeDeadline _ (.supply st) .supply _ rfl)).trans (edited_noteSupply _ st _ _)).trans
    ((edited_powerRestored _ st).mono (Scope.at_within_power st))

theorem edited_supplyClean (h : (s.supply st).state = .on) : Edited (.power st) s (s.supplyClean st) := by
  refine edited_ite .refl (Edited.trans ?_ (edited_noteSupply _ st _ _))
  refine .supply st _ .refl rfl (fun g => by rw [h] at g; cases g) ?_
  intro _
  refine ⟨⟨fun x => ?_, fun x => by simp at x⟩, by simp⟩
  simp only [h] at x
  cases x

end Sys2Proof.Machine
end

