-- ==== Sys2Proof/Laws/Deadlines.lean ====
section
/-! SUPPORT. The deadline list: what placing and removing do (chapter 05), and what a chain of edits does to the list. -/

namespace Sys2Proof.Machine

variable (s : State) (o o' : Owner) (k k' : DeadlineKind)

/-! ### The list -/

theorem Entry.isFor_iff (e : Entry) : e.isFor o k = true ↔ e.owner = o ∧ e.kind = k := by
  simp [Entry.isFor]

theorem mem_insertEntry (now : Tick) (e x : Entry) (l : List Entry) : x ∈ insertEntry now e l ↔ x = e ∨ x ∈ l := by
  induction l with
  | nil => simp [insertEntry]
  | cons y ys ih =>
    simp only [insertEntry]
    split
    · simp only [List.mem_cons, ih]; tauto
    · simp

theorem length_insertEntry (now : Tick) (e : Entry) (l : List Entry) :
    (insertEntry now e l).length = l.length + 1 := by
  induction l with
  | nil => rfl
  | cons y ys ih => simp only [insertEntry]; split <;> simp [ih]

/-- The list stays in due order: an entry stands behind every entry whose distance is equal or smaller (R94). -/
theorem insertEntry_ordered (now : Tick) (e : Entry) (l : List Entry)
    (h : l.Pairwise fun a b => distance now a.deadline ≤ distance now b.deadline) :
    (insertEntry now e l).Pairwise fun a b => distance now a.deadline ≤ distance now b.deadline := by
  induction l with
  | nil => exact List.pairwise_singleton _ _
  | cons y ys ih =>
    rw [List.pairwise_cons] at h
    simp only [insertEntry]
    split
    · rename_i g
      refine List.pairwise_cons.2 ⟨fun x hx => ?_, ih h.2⟩
      rcases (mem_insertEntry now e x ys).1 hx with rfl | hx
      · exact g
      · exact h.1 x hx
    · rename_i g
      refine List.pairwise_cons.2 ⟨fun x hx => ?_, List.pairwise_cons.2 h⟩
      rcases List.mem_cons.1 hx with rfl | hx
      · omega
      · have := h.1 x hx; omega

theorem find?_insertEntry (now : Tick) (e : Entry) (q : Entry → Bool) (l : List Entry) (h : q e = false) :
    (insertEntry now e l).find? q = l.find? q := by
  induction l with
  | nil => simp [insertEntry, h]
  | cons y ys ih =>
    simp only [insertEntry]
    split
    · simp only [List.find?_cons, ih]
    · simp [List.find?_cons, h]

theorem find?_insertEntry_self (now : Tick) (e : Entry) (q : Entry → Bool) (l : List Entry) (h : q e = true)
    (g : ∀ x ∈ l, q x = false) : (insertEntry now e l).find? q = some e := by
  induction l with
  | nil => simp [insertEntry, h]
  | cons y ys ih =>
    simp only [insertEntry]
    split
    · rw [List.find?_cons, g y (by simp)]
      exact ih fun x hx => g x (by simp [hx])
    · simp [h]

theorem find?_isFor_filter (l : List Entry) (h : ¬(o' = o ∧ k' = k)) :
    (l.filter fun e => !e.isFor o k).find? (fun e => e.isFor o' k') = l.find? fun e => e.isFor o' k' := by
  induction l with
  | nil => rfl
  | cons y ys ih =>
    cases hy : y.isFor o k with
    | false => simp only [List.filter_cons, hy, Bool.not_false, if_true, List.find?_cons, ih]
    | true =>
      have hn : y.isFor o' k' = false := by
        rw [Entry.isFor_iff] at hy
        rw [← Bool.not_eq_true, Entry.isFor_iff]
        rintro ⟨rfl, rfl⟩
        exact h hy
      simp only [List.filter_cons, hy, Bool.not_true, Bool.false_eq_true, if_false, List.find?_cons, hn, ih]

/-! ### Placing and removing (R94, R97) -/

@[simp] theorem State.deadlineOf_placeDeadlineAt (t : Tick) : (s.placeDeadlineAt o k t).deadlineOf o k = some t := by
  unfold State.deadlineOf State.placeDeadlineAt
  rw [find?_insertEntry_self _ _ _ _ ((Entry.isFor_iff o k _).2 ⟨rfl, rfl⟩) (fun x hx => by simpa using (List.mem_filter.1 hx).2)]
  rfl

theorem State.deadlineOf_placeDeadlineAt_of_ne (t : Tick) (h : ¬(o' = o ∧ k' = k)) :
    (s.placeDeadlineAt o k t).deadlineOf o' k' = s.deadlineOf o' k' := by
  unfold State.deadlineOf State.placeDeadlineAt
  dsimp only
  rw [find?_insertEntry, find?_isFor_filter _ _ _ _ _ h]
  rw [← Bool.not_eq_true, Entry.isFor_iff]
  rintro ⟨rfl, rfl⟩
  exact h ⟨rfl, rfl⟩

@[simp] theorem State.deadlineOf_placeDeadline (d : Nat) :
    (s.placeDeadline o k d).deadlineOf o k = some (ahead s.tick d) := s.deadlineOf_placeDeadlineAt o k _

theorem State.deadlineOf_placeDeadline_of_ne (d : Nat) (h : ¬(o' = o ∧ k' = k)) :
    (s.placeDeadline o k d).deadlineOf o' k' = s.deadlineOf o' k' := s.deadlineOf_placeDeadlineAt_of_ne o o' k k' _ h

@[simp] theorem State.deadlineOf_removeDeadline : (s.removeDeadline o k).deadlineOf o k = none := by
  unfold State.deadlineOf State.removeDeadline
  rw [Option.map_eq_none_iff, List.find?_eq_none]
  intro x hx
  simpa using (List.mem_filter.1 hx).2

theorem State.deadlineOf_removeDeadline_of_ne (h : ¬(o' = o ∧ k' = k)) :
    (s.removeDeadline o k).deadlineOf o' k' = s.deadlineOf o' k' := by
  unfold State.deadlineOf State.removeDeadline
  dsimp only
  rw [find?_isFor_filter _ _ _ _ _ h]

/-- The three deadlines of a session go together (R12, R19). -/
theorem State.deadlineOf_removeSessionDeadlines (st : Station) (h : k = .step ∨ k = .warn ∨ k = .key) :
    (s.removeSessionDeadlines st).deadlineOf (.session st) k = none := by
  unfold State.removeSessionDeadlines
  rcases h with rfl | rfl | rfl
  · rw [State.deadlineOf_removeDeadline_of_ne _ _ _ _ _ (by simp), State.deadlineOf_removeDeadline_of_ne _ _ _ _ _ (by simp)]
    simp
  · rw [State.deadlineOf_removeDeadline_of_ne _ _ _ _ _ (by simp)]
    simp
  · simp

/-! ### The due test (R95) -/

@[simp] theorem isDue_self (t : Tick) : isDue t t = true := by simp [isDue]

/-! ### One entry of each owner and kind (R93, R94) -/

theorem State.oneEntryEach_placeDeadlineAt (t : Tick) (h : s.oneEntryEach) : (s.placeDeadlineAt o k t).oneEntryEach := by
  unfold State.oneEntryEach State.placeDeadlineAt at *
  dsimp only
  have g := h.sublist (List.filter_sublist (p := fun e => !e.isFor o k))
  have f : ∀ x ∈ s.deadlines.filter (fun e => !e.isFor o k), ¬(x.owner = o ∧ x.kind = k) := fun x hx => by
    have := (List.mem_filter.1 hx).2
    rwa [Bool.not_eq_true', ← Bool.not_eq_true, Entry.isFor_iff] at this
  generalize s.deadlines.filter (fun e => !e.isFor o k) = l at g f
  induction l with
  | nil => exact List.pairwise_singleton _ _
  | cons y ys ih =>
    simp only [insertEntry]
    rw [List.pairwise_cons] at g
    split
    · refine List.pairwise_cons.2 ⟨fun x hx => ?_, ih g.2 fun x hx => f x (by simp [hx])⟩
      rcases (mem_insertEntry _ _ _ _).1 hx with rfl | hx
      · exact f y (by simp)
      · exact g.1 x hx
    · refine List.pairwise_cons.2 ⟨fun x hx => ?_, List.pairwise_cons.2 g⟩
      rintro ⟨a, b⟩
      exact f x hx ⟨a.symm, b.symm⟩

theorem State.oneEntryEach_removeDeadline (h : s.oneEntryEach) : (s.removeDeadline o k).oneEntryEach :=
  List.Pairwise.sublist List.filter_sublist h

namespace Edited

variable {A : Scope} {s t : State}

/-- A chain of edits keeps one entry of each owner and kind. -/
theorem oneEntryEach (h : Edited A s t) (hs : s.oneEntryEach) : t.oneEntryEach := by
  induction h with
  | place o k x _ _ ih => exact State.oneEntryEach_placeDeadlineAt _ o k x ih
  | remove o k _ _ ih => exact State.oneEntryEach_removeDeadline _ o k ih
  | session => assumption
  | device => assumption
  | supply => assumption
  | due => assumption
  | owed => assumption
  | note => assumption
  | result => assumption
  | owedText => assumption
  | owedTexts => assumption
  | counter => assumption
  | wake => assumption
  | await => assumption
  | refl => exact hs

/-- An owner outside the scope keeps its deadlines. -/
theorem deadlineOf_eq (h : Edited A s t) {o : Owner} (ho : ¬A.owner o) (k : DeadlineKind) :
    t.deadlineOf o k = s.deadlineOf o k := by
  induction h with
  | place o' k' x _ a ih =>
    rw [State.deadlineOf_placeDeadlineAt_of_ne _ _ _ _ _ _ (by rintro ⟨rfl, -⟩; exact ho a)]
    exact ih
  | remove o' k' _ a ih =>
    rw [State.deadlineOf_removeDeadline_of_ne _ _ _ _ _ (by rintro ⟨rfl, -⟩; exact ho a)]
    exact ih
  | session => assumption
  | device => assumption
  | supply => assumption
  | due => assumption
  | owed => assumption
  | note => assumption
  | result => assumption
  | owedText => assumption
  | owedTexts => assumption
  | counter => assumption
  | wake => assumption
  | await => assumption
  | refl => rfl

end Edited

end Sys2Proof.Machine
end

