-- ==== Sys2Proof/Laws/Passage.lean ====
section
/-! SUPPORT. The passing of time: what an advance, the samples taken in passing, reaching an instant and falling due do
(R91, R96, R149). -/

namespace Sys2Proof.Machine

variable (s : State) (o : Owner) (k : DeadlineKind) (st : Station) (t : Tick)

/-! ### Advances and samples in passing (R149) -/

@[simp] theorem State.advanceTo_tick : (s.advanceTo t).tick = t := rfl
@[simp] theorem State.advanceTo_slotServed : (s.advanceTo t).slotServed = !s.owesSample t := rfl
@[simp] theorem State.advanceTo_due (p : Port) : (s.advanceTo t).due p = (s.due p).map (Due.passTo s.tick t) := by
  simp [State.advanceTo, State.due]
@[simp] theorem Due.passTo_now (now : Tick) (n : Nat) : Due.passTo now t (.now n) = .now (n + distance now t) := rfl

/-- A device is due exactly when the mark that it is due now stands. -/
theorem State.waited_eq_some {p : Port} {n : Nat} : s.waited p = some n ↔ s.due p = some (.now n) := by
  unfold State.waited
  split <;> simp_all

/-- A device that is due stays due as the counter advances (R142). -/
theorem State.waited_advanceTo {p : Port} {n : Nat} (h : s.waited p = some n) :
    (s.advanceTo t).waited p = some (n + distance s.tick t) := by
  rw [State.waited_eq_some] at h ⊢
  simp [h]

@[simp] theorem State.advanceTo_supply : (s.advanceTo t).supply st = s.supply st := rfl

/-- A sample taken in passing leaves all of the record but the last sample and the over run. -/
@[simp] theorem Supply.sampledQuietly_state (r : Supply) (c : SenseCode) : (r.sampledQuietly c).state = r.state := rfl
@[simp] theorem Supply.sampledQuietly_tripCount (r : Supply) (c : SenseCode) :
    (r.sampledQuietly c).tripCount = r.tripCount := rfl
@[simp] theorem Supply.sampledQuietly_draw (r : Supply) (c : SenseCode) : (r.sampledQuietly c).draw = r.draw := rfl
@[simp] theorem Supply.sampledQuietly_heldOff (r : Supply) (c : SenseCode) :
    (r.sampledQuietly c).heldOff = r.heldOff := rfl

/-- Two samples of one level in passing leave what one leaves. -/
@[simp] theorem Supply.sampledQuietly_twice (r : Supply) (c : SenseCode) :
    (r.sampledQuietly c).sampledQuietly c = r.sampledQuietly c := rfl

/-- A sample of a level that is quiet is what the monitor's four steps make of it (R149, R151). -/
theorem State.takeSample_quiet (h : s.quiet st = true) :
    s.takeSample st s.sense[st.val] = s.modifySupply st fun r => r.sampledQuietly s.sense[st.val] := by
  unfold State.quiet at h
  dsimp only at h
  rw [Bool.and_eq_true, decide_eq_true_eq, beq_iff_eq] at h
  obtain ⟨a, b⟩ := h
  unfold State.takeSample State.setDraw State.judgeSample
  simp [State.modifySupply, a, b, Supply.sampledQuietly]

theorem State.passSlots_supply : (s.passSlots t).supply st =
    if s.passesSlot t st then (s.supply st).sampledQuietly s.sense[st.val] else s.supply st := by
  unfold State.passSlots State.supply
  dsimp only
  rw [Vector.getElem_ofFn]

/-! ### Reaching an instant (R96) -/

/-- An instant already reached leaves everything. -/
theorem State.reach_of_due (h : isDue s.tick t = true) : s.reach t = some s := if_pos h

variable {s o k t}

/-- Reaching an instant changes the count, the sampling slot, the records of the supplies sampled on the way and the due
ticks alone. -/
theorem State.reach_some {u : State} (h : s.reach t = some u) :
    u = { s with tick := s.tickAt t, slotServed := u.slotServed, supplies := u.supplies, nextDue := u.nextDue }
      ∧ ∀ st, u.supply st = s.supply st ∨ u.supply st = (s.supply st).sampledQuietly s.sense[st.val] := by
  unfold State.reach at h
  split at h
  · rename_i g
    cases h
    exact ⟨by simp [State.tickAt, g], fun _ => .inl rfl⟩
  · rename_i g
    split at h
    · cases h
    · cases h
      refine ⟨by simp [State.tickAt, g, State.advanceTo, State.passSlots], fun st => ?_⟩
      rw [State.advanceTo_supply, State.passSlots_supply]
      split
      · exact .inr rfl
      · exact .inl rfl

/-- The samples on the way leave each supply's state, trip count, draw present and held off. -/
theorem State.reach_keeps {u : State} (h : s.reach t = some u) (st : Station) :
    (u.supply st).state = (s.supply st).state ∧ (u.supply st).tripCount = (s.supply st).tripCount
      ∧ (u.supply st).draw = (s.supply st).draw ∧ (u.supply st).heldOff = (s.supply st).heldOff := by
  rcases (State.reach_some h).2 st with e | e <;> rw [e] <;> exact ⟨rfl, rfl, rfl, rfl⟩

/-- What reaching an instant makes of the due ticks (R142). -/
theorem State.reach_due {u : State} (h : s.reach t = some u) (p : Port) :
    u.due p = if isDue s.tick t then s.due p else (s.due p).map (Due.passTo s.tick t) := by
  unfold State.reach at h
  split at h
  · rename_i g
    cases h
    rw [if_pos g]
  · rename_i g
    rw [if_neg g]
    split at h
    · cases h
    · cases h
      exact State.advanceTo_due _ t p

theorem State.reach_tick {u : State} (h : s.reach t = some u) : u.tick = s.tickAt t := by
  rw [(State.reach_some h).1]

/-! ### Falling due (R96) -/

/-- An entry falls due when it stands at the head and its instant can be reached: the clock is carried and the entry
removed. -/
theorem State.fallDue_head {d : Tick} {rest : List Entry} {u : State} (h : s.deadlines = ⟨o, k, d⟩ :: rest)
    (r : s.reach d = some u) : s.fallDue o k = some { u with deadlines := rest } := by
  unfold State.fallDue
  rw [h]
  simp [Entry.isFor, r]

theorem State.fallDue_some {u : State} (h : s.fallDue o k = some u) :
    ∃ d rest v, s.deadlines = ⟨o, k, d⟩ :: rest ∧ s.reach d = some v ∧ u = { v with deadlines := rest } := by
  unfold State.fallDue at h
  split at h
  · cases h
  · rename_i e rest g
    split at h
    · rename_i q
      obtain ⟨rfl, rfl⟩ := (Entry.isFor_iff _ _ e).1 q
      obtain ⟨v, r, rfl⟩ := Option.map_eq_some_iff.1 h
      exact ⟨e.deadline, rest, v, g, r, rfl⟩
    · cases h

end Sys2Proof.Machine
end

