-- ==== Sys2Proof/Laws/Queue.lean ====
section
/-! SUPPORT. The outbound queue and the transmitter: what placing a notice or a reply does to the standing items, what a
chain of edits does to them, and what beginning a frame does (R186, R189, R190). -/

namespace Sys2Proof.Machine

variable (s : State)

/-! ### Placing (R189) -/

/-- With no standing notice of its key a notice is appended. -/
theorem coalesce_fresh (k : ItemKey) (u : Item → Item) (i : Item) (l : List Item) (h : ∀ x ∈ l, x.key ≠ some k) :
    coalesce k u i l = l ++ [i] := by
  induction l with
  | nil => rfl
  | cons y ys ih =>
    rw [coalesce, if_neg (h y (by simp)), ih fun x hx => h x (by simp [hx]), List.cons_append]

/-- The standing notice of a key is updated in its place. -/
theorem coalesce_standing (k : ItemKey) (u : Item → Item) (i x : Item) (before after : List Item)
    (h : ∀ y ∈ before, y.key ≠ some k) (hx : x.key = some k) :
    coalesce k u i (before ++ x :: after) = before ++ u x :: after := by
  induction before with
  | nil => simp [coalesce, hx]
  | cons y ys ih =>
    rw [List.cons_append, coalesce, if_neg (h y (by simp)), ih fun z hz => h z (by simp [hz]), List.cons_append]

/-- Whatever stood, an item that is not of the key still stands. -/
theorem mem_coalesce_of_mem (k : ItemKey) (u : Item → Item) (i x : Item) (l : List Item) (h : x ∈ l)
    (g : x.key ≠ some k) : x ∈ coalesce k u i l := by
  induction l with
  | nil => cases h
  | cons y ys ih =>
    rw [coalesce]
    rcases List.mem_cons.1 h with rfl | h
    · rw [if_neg g]; simp
    · split
      · simp [h]
      · simp [ih h]

/-- What stands after a notice is placed: an item that stood, an update of one, or the new notice. -/
theorem mem_coalesce (k : ItemKey) (u : Item → Item) (i x : Item) (l : List Item) (h : x ∈ coalesce k u i l) :
    x ∈ l ∨ x = i ∨ ∃ y ∈ l, y.key = some k ∧ x = u y := by
  induction l with
  | nil => simp [coalesce] at h; exact .inr (.inl h)
  | cons y ys ih =>
    rw [coalesce] at h
    split at h
    · rename_i g
      rcases List.mem_cons.1 h with rfl | h
      · exact .inr (.inr ⟨y, by simp, g, rfl⟩)
      · exact .inl (by simp [h])
    · rcases List.mem_cons.1 h with rfl | h
      · exact .inl (by simp)
      · rcases ih h with h | h | ⟨z, hz, g, e⟩
        · exact .inl (by simp [h])
        · exact .inr (.inl h)
        · exact .inr (.inr ⟨z, by simp [hz], g, e⟩)

theorem Item.isReply_of_key {i : Item} {k : ItemKey} (h : i.key = some k) : i.isReply = false := by
  cases i <;> simp_all [Item.key, Item.isReply]

theorem Item.isResultOf_of_key {i : Item} {k : ItemKey} (h : i.key = some k) (st : Station) :
    i.isResultOf st = false := by
  cases i <;> simp_all [Item.key, Item.isResultOf]

theorem Item.key_of_isReply {i : Item} (h : i.isReply = true) : i.key = none := by
  cases i <;> simp_all [Item.key, Item.isReply]

/-- Placing a notice leaves the replies that stand. -/
theorem countP_coalesce (k : ItemKey) (u : Item → Item) (i : Item) (l : List Item) (hi : i.key = some k)
    (hu : ∀ x, x.key = some k → (u x).key = some k) :
    (coalesce k u i l).countP Item.isReply = l.countP Item.isReply := by
  induction l with
  | nil => simp [coalesce, Item.isReply_of_key hi]
  | cons y ys ih =>
    rw [coalesce]
    split
    · rename_i g
      simp [Item.isReply_of_key g, Item.isReply_of_key (hu y g)]
    · simp [List.countP_cons, ih]

/-- Placing a notice leaves the results of a station that stand. -/
theorem any_isResultOf_coalesce (k : ItemKey) (u : Item → Item) (i : Item) (l : List Item) (hi : i.key = some k)
    (hu : ∀ x, x.key = some k → (u x).key = some k) (st : Station) :
    (coalesce k u i l).any (Item.isResultOf st) = l.any (Item.isResultOf st) := by
  induction l with
  | nil => simp [coalesce, Item.isResultOf_of_key hi]
  | cons y ys ih =>
    rw [coalesce]
    split
    · rename_i g
      simp [Item.isResultOf_of_key g, Item.isResultOf_of_key (hu y g)]
    · simp [ih]

/-- One notice of each coalesced sort and key stands (R189): a notice placed keeps that so. -/
theorem coalesced_coalesce (k : ItemKey) (u : Item → Item) (i : Item) (l : List Item) (hi : i.key = some k)
    (hu : ∀ x, x.key = some k → (u x).key = some k) (h : l.Pairwise fun a b => a.key = none ∨ a.key ≠ b.key) :
    (coalesce k u i l).Pairwise fun a b => a.key = none ∨ a.key ≠ b.key := by
  induction l with
  | nil => exact List.pairwise_singleton _ _
  | cons y ys ih =>
    rw [List.pairwise_cons] at h
    rw [coalesce]
    split
    · rename_i g
      refine List.pairwise_cons.2 ⟨fun x hx => ?_, h.2⟩
      rw [hu y g, ← g]
      exact h.1 x hx
    · rename_i g
      refine List.pairwise_cons.2 ⟨fun x hx => ?_, ih h.2⟩
      rcases mem_coalesce k u i x ys hx with hx | rfl | ⟨z, hz, gz, rfl⟩
      · exact h.1 x hx
      · rw [hi]; exact .inr g
      · rw [hu z gz]; exact .inr g

theorem coalesced_append (i : Item) (l : List Item) (hi : i.key = none)
    (h : l.Pairwise fun a b => a.key = none ∨ a.key ≠ b.key) :
    (l ++ [i]).Pairwise fun a b => a.key = none ∨ a.key ≠ b.key := by
  refine List.pairwise_append.2 ⟨h, List.pairwise_singleton _ _, fun a _ b hb => ?_⟩
  rw [List.mem_singleton.1 hb, hi]
  cases a.key <;> simp

/-! ### Chains of edits -/

namespace Edited

variable {A : Scope} {s t : State}

/-- A chain of edits places no reply and takes none away. -/
theorem repliesStanding (h : Edited A s t) : t.repliesStanding = s.repliesStanding := by
  induction h with
  | note k u i _ hi hu ih =>
    rw [← ih]
    exact countP_coalesce k u i _ hi hu
  | result i _ _ hi ih =>
    rw [← ih]
    unfold State.repliesStanding State.append
    simp [hi]
  | session => assumption
  | device => assumption
  | supply => assumption
  | due => assumption
  | owed => assumption
  | place => assumption
  | remove => assumption
  | owedText => assumption
  | owedTexts => assumption
  | counter => assumption
  | wake => assumption
  | await => assumption
  | refl => rfl

/-- A chain of edits keeps one notice of each coalesced sort and key. -/
theorem coalescedQueue (h : Edited A s t) (hs : s.coalescedQueue) : t.coalescedQueue := by
  induction h with
  | note k u i _ hi hu ih => exact coalesced_coalesce k u i _ hi hu ih
  | result i _ hi _ ih => exact coalesced_append i _ hi ih
  | session => assumption
  | device => assumption
  | supply => assumption
  | due => assumption
  | owed => assumption
  | place => assumption
  | remove => assumption
  | owedText => assumption
  | owedTexts => assumption
  | counter => assumption
  | wake => assumption
  | await => assumption
  | refl => exact hs

/-- A reply, a STEP-RESULT or a SESSION-END that stands goes on standing. -/
theorem mem_outbound (h : Edited A s t) {i : Item} (hi : i.key = none) (hs : i ∈ s.outbound) : i ∈ t.outbound := by
  induction h with
  | note k u j _ _ _ ih => exact mem_coalesce_of_mem k u j i _ ih (by simp [hi])
  | result j _ _ _ ih => exact List.mem_append_left _ ih
  | session => assumption
  | device => assumption
  | supply => assumption
  | due => assumption
  | owed => assumption
  | place => assumption
  | remove => assumption
  | owedText => assumption
  | owedTexts => assumption
  | counter => assumption
  | wake => assumption
  | await => assumption
  | refl => exact hs

/-- What stood ahead goes on standing ahead: a chain of edits keeps a first item that is no coalesced notice, and every
item behind it was there, or is no reply. -/
theorem outbound_cons (h : Edited A s t) {i : Item} {l : List Item} (hi : i.key = none) (hs : s.outbound = i :: l)
    (hl : ∀ x ∈ l, x.isReply = false) : ∃ l', t.outbound = i :: l' ∧ ∀ x ∈ l', x.isReply = false := by
  induction h with
  | note k u j _ hj hu ih =>
    obtain ⟨l', e, g⟩ := ih
    refine ⟨coalesce k u j l', ?_, fun x hx => ?_⟩
    · show coalesce k u j _ = _
      rw [e, coalesce, if_neg (by simp [hi])]
    · rcases mem_coalesce k u j x l' hx with hx | rfl | ⟨y, -, gy, rfl⟩
      · exact g x hx
      · exact Item.isReply_of_key hj
      · exact Item.isReply_of_key (hu y gy)
  | result j _ _ hj ih =>
    obtain ⟨l', e, g⟩ := ih
    refine ⟨l' ++ [j], ?_, fun x hx => ?_⟩
    · show _ ++ [j] = _
      rw [e, List.cons_append]
    · rcases List.mem_append.1 hx with hx | hx
      · exact g x hx
      · rw [List.mem_singleton.1 hx]; exact hj
  | session => assumption
  | device => assumption
  | supply => assumption
  | due => assumption
  | owed => assumption
  | place => assumption
  | remove => assumption
  | owedText => assumption
  | owedTexts => assumption
  | counter => assumption
  | wake => assumption
  | await => assumption
  | refl => exact ⟨l, hs, hl⟩

end Edited

/-! ### The transmitter (R190) -/

/-- What beginning a frame can do: nothing, the pending flow frame, or the head of the outbound queue. -/
theorem State.beginNext_cases :
    (s.beginNext = s ∧ (s.sending ≠ none ∨ s.cts = false ∨ (s.pendingFlow = none ∧ s.outbound = [])))
    ∨ (s.sending = none ∧ s.cts = true ∧ ∃ f, s.pendingFlow = some f
        ∧ s.beginNext = { s with pendingFlow := none, sending := some ⟨.flow f, (Outgoing.flow f).bytes⟩ })
    ∨ (s.sending = none ∧ s.cts = true ∧ s.pendingFlow = none ∧ ∃ i rest, s.outbound = i :: rest
        ∧ s.beginNext = { s with outbound := rest, sending := some ⟨.item i, (Outgoing.item i).bytes⟩ }) := by
  unfold State.beginNext
  split
  · rename_i h
    simp only [Bool.and_eq_true, Option.isNone_iff_eq_none] at h
    split
    · rename_i f g; exact .inr (.inl ⟨h.1, h.2, f, g, rfl⟩)
    · rename_i i rest g e; exact .inr (.inr ⟨h.1, h.2, g, i, rest, e, rfl⟩)
    · rename_i g e; exact .inl ⟨rfl, .inr (.inr ⟨g, e⟩)⟩
  · rename_i h
    refine .inl ⟨rfl, ?_⟩
    cases hs : s.sending <;> cases hc : s.cts <;> simp_all

/-- Beginning a frame changes the pending flow frame, the outbound queue and the frame in transmission alone. -/
theorem State.beginNext_eq : s.beginNext =
    { s with pendingFlow := s.beginNext.pendingFlow, outbound := s.beginNext.outbound, sending := s.beginNext.sending } := by
  rcases s.beginNext_cases with ⟨e, -⟩ | ⟨-, -, f, -, e⟩ | ⟨-, -, -, i, rest, -, e⟩ <;> rw [e]

@[simp] theorem State.beginNext_of_sending (h : s.sending.isSome = true) : s.beginNext = s := by
  rcases s.beginNext_cases with ⟨e, -⟩ | ⟨g, -⟩ | ⟨g, -⟩
  · exact e
  · simp [g] at h
  · simp [g] at h

/-- What stands or is in transmission goes on so. -/
theorem State.shows_beginNext (i : Item) (h : s.shows i) : s.beginNext.shows i := by
  rcases s.beginNext_cases with ⟨e, -⟩ | ⟨g, -, f, -, e⟩ | ⟨g, -, -, j, rest, o, e⟩
  · rw [e]; exact h
  · rw [e]; exact h.elim .inl fun h => by simp [g] at h
  · rw [e]
    rcases h with h | h
    · rw [o] at h
      rcases List.mem_cons.1 h with rfl | h
      · exact .inr rfl
      · exact .inl h
    · simp [g] at h

/-- Whether a result of a station is outstanding does not change as a frame begins (R14). -/
theorem State.outstanding_beginNext (st : Station) : s.beginNext.outstanding st = s.outstanding st := by
  rcases s.beginNext_cases with ⟨e, -⟩ | ⟨g, -, f, -, e⟩ | ⟨g, -, -, j, rest, o, e⟩ <;> rw [e]
  · simp [State.outstanding, State.sendingSuch, g]
  · simp [State.outstanding, State.sendingSuch, g, o, Bool.or_comm]

theorem State.repliesStanding_beginNext : s.beginNext.repliesStanding ≤ s.repliesStanding := by
  rcases s.beginNext_cases with ⟨e, -⟩ | ⟨g, -, f, -, e⟩ | ⟨g, -, -, j, rest, o, e⟩ <;> rw [e]
  · exact Nat.le_refl _
  · simp [State.repliesStanding, o, List.countP_cons]

theorem State.coalescedQueue_beginNext (h : s.coalescedQueue) : s.beginNext.coalescedQueue := by
  rcases s.beginNext_cases with ⟨e, -⟩ | ⟨g, -, f, -, e⟩ | ⟨g, -, -, j, rest, o, e⟩ <;> rw [e]
  · exact h
  · exact h
  · unfold State.coalescedQueue at *
    rw [o] at h
    exact (List.pairwise_cons.1 h).2

@[simp] theorem State.repliesStanding_append (i : Item) :
    (s.append i).repliesStanding = s.repliesStanding + if i.isReply then 1 else 0 := by
  unfold State.repliesStanding State.append
  simp [List.countP_append, List.countP_cons]

theorem State.shows_append (i : Item) : (s.append i).shows i := .inl (by simp [State.append])

end Sys2Proof.Machine
end

