-- ==== Sys2Proof/Laws/Link.lean ====
section
/-! SUPPORT. The link's operations: an event taken whole, the intake, the taking of a command, and the end of an expiry
(R171, R184 to R187). -/

namespace Sys2Proof.Machine

variable (s before : State)

/-! ### Bytes with unassigned bits, and payloads within the forms (R183, R192) -/

/-- The assigned bit of a reply's flags byte, whatever the others hold. -/
theorem replyFlags_assigned (adjusted : Bool) : (replyFlags adjusted).getLsbD 0 = adjusted := by
  cases adjusted <;> simp [replyFlags, yesNo]

/-- The assigned bits of a request's flags byte, whatever the others hold. -/
theorem requestFlags_assigned (ack command : Bool) :
    (requestFlags ack command).getLsbD 0 = ack ∧ (requestFlags ack command).getLsbD 1 = command := by
  cases ack <;> cases command <;> simp [requestFlags, byteOf]

/-- A payload is read only within the forms: below 241 bytes (R183). -/
theorem withinForm_eq_some {α : Type} {l : List Byte} {x : Option α} {a : α} :
    withinForm l x = some a ↔ l.length < 241 ∧ x = some a := by
  unfold withinForm Config.maxPayload
  split <;> simp_all

/-! ### An event taken whole (R171, R190) -/

theorem edited_passZeroSettle {A : Scope} (h : A.counter) : Edited A s (s.passZeroSettle before) :=
  edited_ite ((edited_removeSettle s h).trans (edited_settleComplete _ h)) .refl

/-- Nothing falls due at once unless the event brought the counter into WAKING. -/
theorem State.passZeroSettle_of_ne (h : s.counter ≠ .waking ∨ before.counter = .waking) :
    s.passZeroSettle before = s := by
  unfold State.passZeroSettle
  rw [if_neg]
  rintro ⟨a, b, -⟩
  rcases h with h | h
  · exact h b
  · exact a h

theorem State.passZeroSettle_of_same (h : s.counter = before.counter) : s.passZeroSettle before = s :=
  s.passZeroSettle_of_ne before (by by_cases g : before.counter = .waking <;> simp_all)

theorem State.whole_of_same (h : s.counter = before.counter) : s.whole before = s.beginNext := by
  rw [State.whole, s.passZeroSettle_of_same before h]

/-- The end of an event keeps what no edit of the counter and no start of a frame touches. -/
theorem State.whole_spec : ∃ u, Edited .devices s u ∧ s.whole before = u.beginNext
    ∧ (∀ p, u.device p = s.device p) ∧ u.nextDue = s.nextDue ∧ u.owed = s.owed ∧ u.awaiting = s.awaiting := by
  refine ⟨s.passZeroSettle before, edited_passZeroSettle s before trivial, rfl, ?_, ?_, ?_, ?_⟩ <;>
    (intros; unfold State.passZeroSettle; split <;> rfl)

/-- An event that leaves the counter as it was is that event and the start of a frame. -/
theorem eventRow_of_same (effect : State → State) (h : (effect s).counter = s.counter) :
    eventRow effect s = .next (effect s).beginNext := by rw [eventRow, State.whole_of_same _ _ h]

theorem eventRow_next (effect : State → State) : ∃ t, eventRow effect s = .next t ∧ t = (effect s).whole s := ⟨_, rfl, rfl⟩

/-- A row whose owner's state times the deadline at the head of the list, when its instant can be reached (R96). -/
theorem State.expire_head {s u : State} (o : Owner) (k : DeadlineKind) (timed : Bool) (effect : State → State) (d : Tick)
    (rest : List Entry) (ht : timed = true) (h : s.deadlines = ⟨o, k, d⟩ :: rest) (r : s.reach d = some u) :
    s.expire o k timed effect = effect { u with deadlines := rest } := by
  unfold State.expire
  rw [if_pos ht, State.fallDue_head h r]

/-- A row of a deadline does nothing, or carries the clock, removes the head and tells the owner. -/
theorem State.expire_cases (o : Owner) (k : DeadlineKind) (timed : Bool) (effect : State → State) :
    s.expire o k timed effect = s
      ∨ (timed = true ∧ ∃ d rest u, s.deadlines = ⟨o, k, d⟩ :: rest ∧ s.reach d = some u
          ∧ s.expire o k timed effect = effect { u with deadlines := rest }) := by
  unfold State.expire
  split
  · rename_i ht
    cases h : s.fallDue o k with
    | none => exact .inl rfl
    | some t =>
      obtain ⟨d, rest, u, g, r, rfl⟩ := State.fallDue_some h
      exact .inr ⟨ht, d, rest, u, g, r, rfl⟩
  · exact .inl rfl

/-! ### The intake (R184 to R186) -/

/-- What a good frame does to the counter is a chain of edits that reaches no supply. -/
theorem edited_goodFrameToCounter : Edited .noSupply s s.goodFrameToCounter := by
  unfold State.goodFrameToCounter
  split
  · exact edited_placeSupervision s trivial
  · exact edited_placeSupervision s trivial
  · exact edited_placeSupervision s trivial
  · exact edited_reopen s
  · exact .refl
  · exact .refl

/-- A frame appended or dropped changes the intake and the flow frames alone. -/
theorem State.appendFrame_eq (f : Frame) : s.appendFrame f =
    { s with
      intake := (s.appendFrame f).intake, pendingFlow := (s.appendFrame f).pendingFlow,
      holding := (s.appendFrame f).holding } := by
  unfold State.appendFrame State.flowOnAppend
  split
  · split <;> rfl
  · rfl

theorem State.appendFrame_intake (f : Frame) :
    (s.appendFrame f).intake = if s.intake.length < 8 then s.intake ++ [f] else s.intake := by
  unfold State.appendFrame State.flowOnAppend
  show State.intake (if s.intake.length < 8 then _ else s) = _
  split
  · split <;> rfl
  · rfl

/-- A good frame is a chain of edits that reaches no supply, and then its appending. -/
theorem State.goodFrame_spec (f : Frame) : ∃ u, Edited .noSupply s u ∧ s.goodFrame f = u.appendFrame f :=
  ⟨_, edited_goodFrameToCounter s, rfl⟩

/-- The taking of the oldest frame changes the intake and the flow frames alone. -/
theorem State.takeHead_eq : s.takeHead =
    { s with intake := s.intake.tail, pendingFlow := s.takeHead.pendingFlow, holding := s.takeHead.holding } := by
  unfold State.takeHead State.flowOnTake
  split <;> rfl

@[simp] theorem State.takeHead_intake : s.takeHead.intake = s.intake.tail := by rw [s.takeHead_eq]
@[simp] theorem State.takeHead_tick : s.takeHead.tick = s.tick := by rw [s.takeHead_eq]
@[simp] theorem State.takeHead_outbound : s.takeHead.outbound = s.outbound := by rw [s.takeHead_eq]
@[simp] theorem State.takeHead_sending : s.takeHead.sending = s.sending := by rw [s.takeHead_eq]
@[simp] theorem State.takeHead_sessions : s.takeHead.sessions = s.sessions := by rw [s.takeHead_eq]
@[simp] theorem State.takeHead_devices : s.takeHead.devices = s.devices := by rw [s.takeHead_eq]
@[simp] theorem State.takeHead_nextDue : s.takeHead.nextDue = s.nextDue := by rw [s.takeHead_eq]
@[simp] theorem State.takeHead_owed : s.takeHead.owed = s.owed := by rw [s.takeHead_eq]
@[simp] theorem State.takeHead_supplies : s.takeHead.supplies = s.supplies := by rw [s.takeHead_eq]
@[simp] theorem State.takeHead_deadlines : s.takeHead.deadlines = s.deadlines := by rw [s.takeHead_eq]
@[simp] theorem State.takeHead_counter : s.takeHead.counter = s.counter := by rw [s.takeHead_eq]
@[simp] theorem State.takeHead_wakeMask : s.takeHead.wakeMask = s.wakeMask := by rw [s.takeHead_eq]
@[simp] theorem State.takeHead_wakeCause : s.takeHead.wakeCause = s.wakeCause := by rw [s.takeHead_eq]
@[simp] theorem State.takeHead_awaiting : s.takeHead.awaiting = s.awaiting := by rw [s.takeHead_eq]
@[simp] theorem State.takeHead_textOwed : s.takeHead.textOwed = s.textOwed := by rw [s.takeHead_eq]
@[simp] theorem State.takeHead_settings : s.takeHead.settings = s.settings := by rw [s.takeHead_eq]
@[simp] theorem State.takeHead_policy : s.takeHead.policy = s.policy := by rw [s.takeHead_eq]
@[simp] theorem State.takeHead_defaultPolicy : s.takeHead.defaultPolicy = s.defaultPolicy := by rw [s.takeHead_eq]
@[simp] theorem State.takeHead_idleTexts : s.takeHead.idleTexts = s.idleTexts := by rw [s.takeHead_eq]
@[simp] theorem State.takeHead_closedText : s.takeHead.closedText = s.closedText := by rw [s.takeHead_eq]
@[simp] theorem State.takeHead_businessMonth : s.takeHead.businessMonth = s.businessMonth := by rw [s.takeHead_eq]
@[simp] theorem State.takeHead_pendingDirect : s.takeHead.pendingDirect = s.pendingDirect := by rw [s.takeHead_eq]
@[simp] theorem State.takeHead_flight : s.takeHead.flight = s.flight := by rw [s.takeHead_eq]
@[simp] theorem State.takeHead_resetPending : s.takeHead.resetPending = s.resetPending := by rw [s.takeHead_eq]
@[simp] theorem State.takeHead_pending : s.takeHead.pending = s.pending := by rw [s.takeHead_eq]
@[simp] theorem State.takeHead_session (st : Station) : s.takeHead.session st = s.session st := by
  simp [State.session]
@[simp] theorem State.takeHead_device (p : Port) : s.takeHead.device p = s.device p := by simp [State.device]
@[simp] theorem State.takeHead_supply (st : Station) : s.takeHead.supply st = s.supply st := by simp [State.supply]
@[simp] theorem State.takeHead_due (p : Port) : s.takeHead.due p = s.due p := by simp [State.due]
@[simp] theorem State.takeHead_owes (p : Port) : s.takeHead.owes p = s.owes p := by simp [State.owes]
@[simp] theorem State.takeHead_deadlineOf (o : Owner) (k : DeadlineKind) :
    s.takeHead.deadlineOf o k = s.deadlineOf o k := by simp [State.deadlineOf]

theorem State.sameStore_takeHead : SameStore s s.takeHead := by simp [SameStore]

/-! ### The taking of a command (R186, R187, log 2) -/

/-- A frame that the command unit takes now goes to its owner. -/
theorem State.runCommand_taken (f : Frame) (owner : State → State) (h : s.takesNow f) :
    s.runCommand f owner = owner s.takeHead := by
  unfold State.runCommand State.takeIfReady
  rw [if_pos h.1, if_pos h.2]

theorem commandRow_taken (f : Frame) (owner : State → State) (h : s.takesNow f) :
    commandRow f owner s = .next ((owner s.takeHead).whole s) := by
  rw [commandRow, s.runCommand_taken f owner h]

/-- A taken command whose owner leaves the counter: the owner's effect and the start of a frame. -/
theorem commandRow_same (f : Frame) (owner : State → State) (h : s.takesNow f)
    (g : (owner s.takeHead).counter = s.counter) : commandRow f owner s = .next (owner s.takeHead).beginNext := by
  rw [commandRow_taken s f owner h, State.whole_of_same _ _ g]

/-- A taken command whose owner does nothing but answer. -/
theorem commandRow_answer (f : Frame) (owner : State → State) (h : s.takesNow f) (o : ReplyOutcome) (a : Bool)
    (data : List Byte) (g : owner s.takeHead = s.takeHead.answer f o a data) :
    commandRow f owner s = .next (s.answeredWith (.reply f.sequence (f.kind ||| 0x80) o a data)) := by
  rw [commandRow_same s f owner h (by rw [g]; exact s.takeHead_counter), g]
  rfl

/-- What a command row can do: nothing but wait, the owner's effect on the frame at the head, or the arrival of a good
frame, which the owner takes at once when it may. -/
theorem State.runCommand_cases (f : Frame) (owner : State → State) :
    s.runCommand f owner = s
      ∨ (s.takesNow f ∧ s.runCommand f owner = owner s.takeHead)
      ∨ s.runCommand f owner = s.goodFrame f
      ∨ ((s.goodFrame f).takesNow f ∧ s.runCommand f owner = owner (s.goodFrame f).takeHead) := by
  unfold State.runCommand State.takeIfReady
  split
  · rename_i h
    split
    · rename_i g; exact .inr (.inl ⟨⟨h, g⟩, rfl⟩)
    · exact .inl rfl
  · dsimp only
    split
    · rename_i h
      split
      · rename_i g; exact .inr (.inr (.inr ⟨⟨by rw [h]; rfl, g⟩, rfl⟩))
      · exact .inr (.inr (.inl rfl))
    · exact .inr (.inr (.inl rfl))

/-- The command unit takes a frame only with fewer than eight replies standing and none awaited (R186). -/
theorem State.canTake_iff : s.canTake = true ↔
    s.repliesStanding < 8 ∧ s.pendingDirect = none ∧ s.flight.any (fun f => f.direct.isSome) = false
      ∧ s.resetPending = none := by
  unfold State.canTake State.directBusy
  show (decide (s.repliesStanding < 8) && _ && _) = true ↔ _
  simp only [Bool.and_eq_true, decide_eq_true_eq, Bool.not_eq_true', Bool.or_eq_false_iff, Option.isNone_iff_eq_none]
  cases s.pendingDirect <;> simp [and_assoc]

end Sys2Proof.Machine
end

