-- ==== Sys2Proof/Laws/Policy.lean ====
section
/-! SUPPORT. The policy table: the order of prefixes (R81), inserting and replacing (R83), the lookup (R87), and bringing
values into range (R82, R188). -/

namespace Sys2Proof.Machine

/-! ### The order of R81 -/

theorem keyBefore_irrefl (a : Digits) : keyBefore a a = false := by
  induction a with
  | nil => rfl
  | cons x xs ih => simp [keyBefore, ih]

theorem keyBefore_trans {a b c : Digits} (h : keyBefore a b = true) (g : keyBefore b c = true) :
    keyBefore a c = true := by
  induction a generalizing b c with
  | nil =>
    cases b with
    | nil => simp [keyBefore] at h
    | cons y ys => cases c <;> simp_all [keyBefore]
  | cons x xs ih =>
    cases b with
    | nil => simp [keyBefore] at h
    | cons y ys =>
      cases c with
      | nil => simp [keyBefore] at g
      | cons z zs =>
        simp only [keyBefore] at *
        split at h
        · split at g
          · rw [if_pos (by omega)]
          · split at g
            · cases g
            · rw [if_pos (by omega)]
        · split at h
          · cases h
          · split at g
            · rw [if_pos (by omega)]
            · split at g
              · cases g
              · rw [if_neg (by omega), if_neg (by omega)]
                exact ih h g

/-- Of two prefixes one comes before the other, or they are equal. -/
theorem keyBefore_total (a b : Digits) : keyBefore a b = true ∨ a = b ∨ keyBefore b a = true := by
  induction a generalizing b with
  | nil => cases b <;> simp [keyBefore]
  | cons x xs ih =>
    cases b with
    | nil => simp [keyBefore]
    | cons y ys =>
      simp only [keyBefore]
      rcases Nat.lt_trichotomy x y with h | rfl | h
      · simp [h]
      · rcases ih ys with h | rfl | h
        · simp [h]
        · simp
        · simp [h]
      · simp [h]

/-- A prefix comes before every longer one that begins with it. -/
theorem keyBefore_of_prefix {a b : Digits} (h : a <+: b) (g : a ≠ b) : keyBefore a b = true := by
  obtain ⟨c, rfl⟩ := h
  induction a with
  | nil => cases c with
    | nil => exact absurd rfl g
    | cons => rfl
  | cons x xs ih => simp only [List.cons_append, keyBefore, Nat.lt_irrefl, if_false]; exact ih (by simpa using g)

/-! ### The table -/

theorem holdsKey_iff (key : Digits) (l : List PolicyEntry) : holdsKey key l = true ↔ ∃ e ∈ l, e.key = key := by
  simp [holdsKey]

theorem mem_insertPolicy (e x : PolicyEntry) (l : List PolicyEntry) : x ∈ insertPolicy e l ↔ x = e ∨ x ∈ l := by
  induction l with
  | nil => simp [insertPolicy]
  | cons y ys ih =>
    simp only [insertPolicy]
    split
    · simp
    · simp only [List.mem_cons, ih]; tauto

theorem length_insertPolicy (e : PolicyEntry) (l : List PolicyEntry) : (insertPolicy e l).length = l.length + 1 := by
  induction l with
  | nil => rfl
  | cons y ys ih => simp only [insertPolicy]; split <;> simp [ih]

/-- An entry whose prefix is not held is inserted at its place in the order (R83). -/
theorem insertPolicy_ordered (e : PolicyEntry) (l : List PolicyEntry) (g : holdsKey e.key l = false)
    (h : l.Pairwise fun a b => keyBefore a.key b.key = true) :
    (insertPolicy e l).Pairwise fun a b => keyBefore a.key b.key = true := by
  induction l with
  | nil => exact List.pairwise_singleton _ _
  | cons y ys ih =>
    rw [List.pairwise_cons] at h
    simp only [holdsKey, List.any_cons, Bool.or_eq_false_iff, beq_eq_false_iff_ne] at g
    simp only [insertPolicy]
    split
    · rename_i q
      refine List.pairwise_cons.2 ⟨fun x hx => ?_, List.pairwise_cons.2 h⟩
      rcases List.mem_cons.1 hx with rfl | hx
      · exact q
      · exact keyBefore_trans q (h.1 x hx)
    · rename_i q
      refine List.pairwise_cons.2 ⟨fun x hx => ?_, ih g.2 h.2⟩
      rcases (mem_insertPolicy e x ys).1 hx with rfl | hx
      · rcases keyBefore_total x.key y.key with c | c | c
        · exact absurd c q
        · exact absurd c.symm g.1
        · exact c
      · exact h.1 x hx

theorem replaceEntry_keys (e : PolicyEntry) (l : List PolicyEntry) :
    (replaceEntry e l).map (·.key) = l.map (·.key) := by
  induction l with
  | nil => rfl
  | cons y ys ih =>
    simp only [replaceEntry, List.map_cons] at *
    rw [ih]
    split
    · rename_i h; rw [h]
    · rfl

/-- An entry replaced keeps its place (R83). -/
theorem replaceEntry_ordered (e : PolicyEntry) (l : List PolicyEntry)
    (h : l.Pairwise fun a b => keyBefore a.key b.key = true) :
    (replaceEntry e l).Pairwise fun a b => keyBefore a.key b.key = true := by
  have : (l.map (·.key)).Pairwise fun a b => keyBefore a b = true := List.pairwise_map.2 h
  rw [← replaceEntry_keys e l] at this
  exact List.pairwise_map.1 this

theorem mem_replaceEntry (e x : PolicyEntry) (l : List PolicyEntry) (h : x ∈ replaceEntry e l) :
    x = e ∨ (x ∈ l ∧ x.key ≠ e.key) := by
  obtain ⟨y, hy, rfl⟩ := List.mem_map.1 h
  split
  · exact .inl rfl
  · rename_i g; exact .inr ⟨hy, g⟩

/-! ### The lookup (R87) -/

/-- The lookup's match is an entry of the table whose prefix leads the account, and no other match is longer. -/
theorem longestMatch_some (account : Digits) (l : List PolicyEntry) (e : PolicyEntry)
    (h : longestMatch account l = some e) :
    e ∈ l ∧ e.key <+: account ∧ ∀ x ∈ l, x.key <+: account → x.key.length ≤ e.key.length := by
  induction l generalizing e with
  | nil => cases h
  | cons y ys ih =>
    rw [longestMatch] at h
    cases g : longestMatch account ys with
    | none =>
      rw [g] at h
      dsimp only at h
      split at h
      · rename_i p
        cases h
        refine ⟨by simp, List.isPrefixOf_iff_prefix.1 p, fun x hx q => ?_⟩
        rcases List.mem_cons.1 hx with rfl | hx
        · exact Nat.le_refl _
        · exfalso
          clear ih p
          induction ys with
          | nil => cases hx
          | cons z zs jh =>
            rw [longestMatch] at g
            cases k : longestMatch account zs with
            | some w => rw [k] at g; dsimp only at g; split at g <;> cases g
            | none =>
              rw [k] at g
              dsimp only at g
              split at g
              · cases g
              · rename_i np
                rcases List.mem_cons.1 hx with rfl | hx
                · exact np (List.isPrefixOf_iff_prefix.2 q)
                · exact jh k (by simp [hx]) hx
      · cases h
    | some w =>
      rw [g] at h
      dsimp only at h
      obtain ⟨a, b, c⟩ := ih w g
      split at h
      · rename_i p
        simp only [Bool.and_eq_true, decide_eq_true_eq] at p
        cases h
        refine ⟨by simp, List.isPrefixOf_iff_prefix.1 p.1, fun x hx q => ?_⟩
        rcases List.mem_cons.1 hx with rfl | hx
        · exact Nat.le_refl _
        · have := c x hx q; omega
      · rename_i p
        cases h
        refine ⟨by simp [a], b, fun x hx q => ?_⟩
        rcases List.mem_cons.1 hx with rfl | hx
        · have := List.isPrefixOf_iff_prefix.2 q
          simp only [this, Bool.true_and, decide_eq_true_eq] at p
          omega
        · exact c x hx q

/-! ### Values brought into range (R188) -/

theorem clamp_range (low high n : Nat) (h : low ≤ high) : low ≤ (clamp low high n).value ∧ (clamp low high n).value ≤ high := by
  simp only [clamp]
  split
  · omega
  · split <;> omega

/-- The adjusted flag says that the value was changed. -/
theorem clamp_adjusted (low high n : Nat) : (clamp low high n).adjusted = true ↔ (clamp low high n).value ≠ n := by
  simp [clamp]

theorem clamp_of_range (low high n : Nat) (h : low ≤ n) (g : n ≤ high) : clamp low high n = ⟨n, false⟩ := by
  simp [clamp, Nat.not_lt.2 h, Nat.not_lt.2 g]

/-- A policy normalised with its ranges good lies in the ranges of R79. -/
theorem normalisePolicy_inRange (p : Policy) (h : (normalisePolicy p).value.rangesGood = true) :
    (normalisePolicy p).value.inRange := by
  simp only [Policy.rangesGood, Bool.and_eq_true, decide_eq_true_eq] at h
  have a := clamp_range 12 19 p.accountMin (by omega)
  have b := clamp_range 12 19 p.accountMax (by omega)
  have c := clamp_range 4 12 p.concealedMin (by omega)
  have d := clamp_range 4 12 p.concealedMax (by omega)
  exact ⟨a.1, h.1, b.2, c.1, h.2, d.2⟩

theorem settingInRange_adjusted (n : SettingName) (v : Nat) :
    (settingInRange n v).adjusted = true ↔ (settingInRange n v).value ≠ v := by
  cases n <;> simp [settingInRange, clamp, normaliseThreshold]

end Sys2Proof.Machine
end

