-- ==== Sys2Proof/Laws/Changes.lean ====
section
/-! SUPPORT. What one event can do, said once: a chain of changes, each an edit of the blocks behind the link or one of
the link's, the bus's, the store's and the resets' own changes. A property that every change keeps is kept by every
command (Laws/Rows.lean), and so by every step. -/

namespace Sys2Proof.Machine

/-- What an event may do besides its edits: move the clock, change the retained store, restore a locked supply, reset,
power on. -/
structure Rights where
  clock : Prop
  store : Prop
  restore : Prop
  reset : Prop
  power : Prop

/-- The first part of a soft or full reset, up to the devices (R178 steps 1 to 4). -/
def State.wiped (s : State) : State :=
  { s with
    sessions := Vector.replicate 8 Session.blank, intake := [], outbound := [], pendingFlow := none, holding := false,
    deadlines := s.deadlines.filter Entry.survivesReset, devices := s.devices.map Device.reset,
    owed := Vector.replicate 16 none }

/-- The controller's record at the entry to STARTING (R164 steps 1 and 2). -/
def State.startingRecord (s : State) : State :=
  { s with
    counter := .starting, wakeMask := Vector.replicate 8 ⟨false, false, false, false⟩, wakeCause := none,
    textOwed := Vector.replicate 8 none, resetPending := none }

/-- The changes. A reply is placed with fewer than eight standing or awaited (R186), or takes the place of the one that a
direct exchange owed (R146). -/
inductive Change (A : Rights) (s : State) : State → Prop
  | edited {t : State} : Edited .all s t → Change A s t
  | start : Change A s s.beginNext
  | clock (t : Tick) (b : Bool) (v : Vector SenseCode 8) (r : Vector Supply 8) (n : Vector (Option Due) 16) :
      A.clock →
      (∀ st : Station, r[st.val].state = (s.supply st).state ∧ r[st.val].tripCount = (s.supply st).tripCount) →
      Change A s { s with tick := t, slotServed := b, sense := v, supplies := r, nextDue := n }
  | line (c : Bool) (r : Receiver) (i : List Frame) (f : Option Flow) (h : Bool) :
      Change A s { s with cts := c, receiver := r, intake := i, pendingFlow := f, holding := h }
  | sent : Change A s { s with sending := none }
  | reply (i : Item) : i.isReply = true → s.repliesStanding + s.repliesAwaited < 8 → Change A s (s.append i)
  | direct (x : Direct) : s.repliesStanding + s.repliesAwaited < 8 → Change A s { s with pendingDirect := some x }
  | withdrawn (i : Item) : i.isReply = true → s.pendingDirect.isSome = true →
      Change A s ({ s with pendingDirect := none }.append i)
  | diag (f : Flight) : s.pendingDirect.isSome = true → s.flight = none →
      Change A s { s with pendingDirect := none, flight := some f }
  | carried (f : Flight) : s.flight = none → f.direct = none → Change A s { s with flight := some f }
  | ended : Change A s { s with flight := none }
  | answered (i : Item) (f : Flight) : i.isReply = true → s.flight = some f → f.direct.isSome = true →
      Change A s ({ s with flight := none }.append i)
  | expired (e : Entry) (rest : List Entry) : s.deadlines = e :: rest → Change A s { s with deadlines := rest }
  | mask (m : Vector WakeFlags 8) : Change A s { s with wakeMask := m }
  | asked (k : ResetKind) : Change A s { s with resetPending := some k }
  | restored (st : Station) (r : Supply) : A.restore → r.state ≠ .locked → r.tripCount = 0 →
      Change A s (s.setSupply st r)
  | table (l : List PolicyEntry) : A.store → (tableGood s.policy → tableGood l) → Change A s { s with policy := l }
  | default (p : Policy) : A.store → p.inRange → Change A s { s with defaultPolicy := p }
  | month (m : BusinessMonth) : A.store → Change A s { s with businessMonth := some m }
  | texts (i : Vector Text 8) (c : Text) : A.store → Change A s { s with idleTexts := i, closedText := c }
  | settings (x : Settings) : A.store → (s.settings.inRange → x.inRange) → Change A s (s.storeSettings x)
  | wiped : A.reset → Change A s s.wiped
  | storeReset : A.store → Change A s (s.resetStore.capRestarts Settings.powerOn.restartLimit)
  | record : A.reset → Change A s s.startingRecord
  | power (x : Straps) : A.power → Change A s (s.powerOn x)

/-- A chain of changes. -/
inductive Changed (A : Rights) (s : State) : State → Prop
  | refl : Changed A s s
  | step {t u : State} : Changed A s t → Change A t u → Changed A s u

namespace Changed

variable {A : Rights} {s t u : State}

theorem trans (h : Changed A s t) (g : Changed A t u) : Changed A s u := by
  induction g with
  | refl => exact h
  | step _ c ih => exact .step ih c

theorem one (c : Change A s t) : Changed A s t := .step .refl c

theorem ofEdited (h : Edited .all s t) : Changed A s t := .one (.edited h)

/-- A property that every change keeps is kept by a chain of them. -/
theorem kept {P : State → Prop} (h : ∀ s t, Change A s t → P s → P t) (g : Changed A s t) (hs : P s) : P t := by
  induction g with
  | refl => exact hs
  | step _ c ih => exact h _ _ c ih

end Changed

/-! ### Scopes within everything -/

theorem Edited.all {A : Scope} {s t : State} (h : Edited A s t) : Edited .all s t :=
  h.mono ⟨fun _ _ => trivial, fun _ _ => trivial, fun _ _ => trivial, fun _ => trivial⟩

variable {A : Rights} {s t : State}

theorem Changed.edit {B : Scope} (h : Edited B s t) : Changed A s t := .ofEdited h.all

/-! ### The link's operations -/

theorem changed_whole (s before : State) : Changed A s (s.whole before) :=
  .step (.edit (edited_passZeroSettle (A := .all) s before trivial)) .start

theorem changed_takeHead (s : State) : Changed A s s.takeHead := by
  rw [s.takeHead_eq]
  exact .one (.line _ _ _ _ _)

theorem changed_appendFrame (s : State) (f : Frame) : Changed A s (s.appendFrame f) := by
  rw [s.appendFrame_eq f]
  exact .one (.line _ _ _ _ _)

theorem changed_goodFrame (s : State) (f : Frame) : Changed A s (s.goodFrame f) :=
  (Changed.edit (edited_goodFrameToCounter s)).trans (changed_appendFrame _ f)

/-- A frame that the command unit may take leaves room for its reply (R186). -/
theorem State.room_of_canTake (h : s.canTake = true) : s.repliesStanding + s.repliesAwaited < 8 := by
  obtain ⟨a, b, c, -⟩ := s.canTake_iff.1 h
  unfold State.repliesAwaited
  rw [b, c]
  simpa using a

theorem changed_answer (s : State) (f : Frame) (o : ReplyOutcome) (a : Bool) (data : List Byte)
    (h : s.repliesStanding + s.repliesAwaited < 8) : Changed A s (s.answer f o a data) :=
  .one (.reply _ rfl h)

theorem changed_refuse (s : State) (f : Frame) (o : ReplyOutcome) (h : s.repliesStanding + s.repliesAwaited < 8) :
    Changed A s (s.refuse f o) := changed_answer s f o false [] h

theorem changed_withFields {α : Type} (s : State) (f : Frame) (x : Option α) (owner : α → State)
    (h : s.repliesStanding + s.repliesAwaited < 8) (g : ∀ a, x = some a → Changed A s (owner a)) :
    Changed A s (s.withFields f x owner) := by
  cases x with
  | none => exact changed_refuse s f _ h
  | some a => exact g a rfl

/-- A command row is a chain of changes when its owner's effect is one wherever there is room for a reply. -/
theorem changed_commandRow (s : State) (f : Frame) (owner : State → State)
    (g : ∀ s : State, s.repliesStanding + s.repliesAwaited < 8 → Changed A s (owner s))
    (h : commandRow f owner s = .next t) : Changed A s t := by
  have c : Changed A s (s.runCommand f owner) := by
    rcases s.runCommand_cases f owner with e | ⟨k, e⟩ | e | ⟨k, e⟩ <;> rw [e]
    · exact .refl
    · refine (changed_takeHead s).trans (g _ ?_)
      have := State.room_of_canTake k.2
      simpa [State.repliesStanding, State.repliesAwaited] using this
    · exact changed_goodFrame s f
    · refine ((changed_goodFrame s f).trans (changed_takeHead _)).trans (g _ ?_)
      have := State.room_of_canTake k.2
      simpa [State.repliesStanding, State.repliesAwaited] using this
  cases h
  exact c.trans (changed_whole _ _)

/-- An event that is no command is a chain of changes when its effect is one. -/
theorem changed_eventRow (s : State) (effect : State → State) (g : Changed A s (effect s))
    (h : eventRow effect s = .next t) : Changed A s t := by
  cases h
  exact g.trans (changed_whole _ _)

/-- Reaching an instant is one change. -/
theorem changed_reach (s : State) {t : Tick} {u : State} (hA : A.clock) (h : s.reach t = some u) : Changed A s u := by
  rw [(State.reach_some h).1]
  exact .one (.clock _ _ s.sense _ _ hA fun st => ⟨(State.reach_keeps h st).1, (State.reach_keeps h st).2.1⟩)

/-- A deadline that falls due is a chain of changes when what its owner does is one. -/
theorem changed_expire (s : State) (o : Owner) (k : DeadlineKind) (timed : Bool) (effect : State → State) (hA : A.clock)
    (g : timed = true → ∀ u : State, (∀ st, u.session st = s.session st) → (∀ p, u.device p = s.device p) →
      (∀ st, (u.supply st).state = (s.supply st).state) → u.counter = s.counter → Changed A u (effect u)) :
    Changed A s (s.expire o k timed effect) := by
  rcases s.expire_cases o k timed effect with e | ⟨ht, d, rest, u, hd, r, e⟩ <;> rw [e]
  · exact .refl
  · have q := (State.reach_some r).1
    have hu : u.deadlines = ⟨o, k, d⟩ :: rest := by rw [q]; exact hd
    refine (Changed.step (changed_reach s hA r) (.expired _ rest hu)).trans (g ht _ ?_ ?_ ?_ ?_)
    · intro st; rw [q]; rfl
    · intro p; rw [q]; rfl
    · exact fun st => (State.reach_keeps r st).1
    · rw [q]

end Sys2Proof.Machine
end

