-- ==== Sys2Proof/Laws/PerInstr.lean ====
section
/-! SUPPORT. The operand check of every command, one lemma each: a command row and the frame it takes name each other, and
what passes the check is what the line can bring. -/

namespace Sys2Proof.Laws.OperandCheck

open Sys2Proof Sys2Proof.Machine

/-- The frame of an answer row. -/
def answerBytes : Instr → Option (List Byte)
  | .probeAnswer a | .identifyAnswer a | .configureAnswer a | .pollAnswer a | .diagAnswer a => some a
  | _ => none

/-- A row takes a frame exactly when it has a kind byte, and of that kind (section 11.2). A row that passes the check is
the one that the command unit hands its own frame to (R187), with a payload that a frame can hold (R182); an answer that
passes it fits the answer window (R131, R136). -/
def Statement (i : Instr) : Prop :=
  i.frame.map (·.kind) = i.kindByte
    ∧ (i.wellFormed = true → ∀ f, i.frame = some f → f.row = i ∧ f.payload.length ≤ 241)
    ∧ (i.wellFormed = true → ∀ a, answerBytes i = some a → a.length ≤ 138)

/-- The statement for a row that takes a frame of its own kind. -/
theorem command {i : Instr} {f : Frame} (h : i.frame = some f) (k : i.kindByte = some f.kind)
    (w : i.wellFormed = true → f.row = i ∧ f.payload.length ≤ 241)
    (m : answerBytes i = none) : Statement i :=
  ⟨by rw [h, k]; rfl, fun p g e => by cases h.symm.trans e; exact w p, fun _ a e => by cases m.symm.trans e⟩

/-- The row of a kind that names no command (section 11.2). -/
theorem row_of_unknown (k q : Byte) (l : List Byte) (h : namesCommand k = false) :
    (⟨k, q, l⟩ : Frame).row = .unknownCommandKind k q l := by
  unfold Frame.row
  simp only [namesCommand, Bool.and_eq_false_iff, decide_eq_false_iff_not] at h
  split <;> first | rfl | (rename_i e; dsimp only at e; omega)

theorem openSession (q : Byte) (l : List Byte) : Statement (.openSession q l) :=
  command rfl rfl (fun h => ⟨rfl, of_decide_eq_true h⟩) rfl
theorem cancelSession (q : Byte) (l : List Byte) : Statement (.cancelSession q l) :=
  command rfl rfl (fun h => ⟨rfl, of_decide_eq_true h⟩) rfl
theorem extendStep (q : Byte) (l : List Byte) : Statement (.extendStep q l) :=
  command rfl rfl (fun h => ⟨rfl, of_decide_eq_true h⟩) rfl
theorem policyLoad (q : Byte) (l : List Byte) : Statement (.policyLoad q l) :=
  command rfl rfl (fun h => ⟨rfl, of_decide_eq_true h⟩) rfl
theorem policyDrop (q : Byte) (l : List Byte) : Statement (.policyDrop q l) :=
  command rfl rfl (fun h => ⟨rfl, of_decide_eq_true h⟩) rfl
theorem policyList (q : Byte) (l : List Byte) : Statement (.policyList q l) :=
  command rfl rfl (fun h => ⟨rfl, of_decide_eq_true h⟩) rfl
theorem defaultPolicy (q : Byte) (l : List Byte) : Statement (.defaultPolicy q l) :=
  command rfl rfl (fun h => ⟨rfl, of_decide_eq_true h⟩) rfl
theorem setDate (q : Byte) (l : List Byte) : Statement (.setDate q l) :=
  command rfl rfl (fun h => ⟨rfl, of_decide_eq_true h⟩) rfl
theorem deviceInfo (q : Byte) (l : List Byte) : Statement (.deviceInfo q l) :=
  command rfl rfl (fun h => ⟨rfl, of_decide_eq_true h⟩) rfl
theorem deviceRelease (q : Byte) (l : List Byte) : Statement (.deviceRelease q l) :=
  command rfl rfl (fun h => ⟨rfl, of_decide_eq_true h⟩) rfl
theorem directExchange (q : Byte) (l : List Byte) : Statement (.directExchange q l) :=
  command rfl rfl (fun h => ⟨rfl, of_decide_eq_true h⟩) rfl
theorem supplyOff (q : Byte) (l : List Byte) : Statement (.supplyOff q l) :=
  command rfl rfl (fun h => ⟨rfl, of_decide_eq_true h⟩) rfl
theorem supplyRestore (q : Byte) (l : List Byte) : Statement (.supplyRestore q l) :=
  command rfl rfl (fun h => ⟨rfl, of_decide_eq_true h⟩) rfl
theorem dozeCounter (q : Byte) (l : List Byte) : Statement (.dozeCounter q l) :=
  command rfl rfl (fun h => ⟨rfl, of_decide_eq_true h⟩) rfl
theorem openCounter (q : Byte) (l : List Byte) : Statement (.openCounter q l) :=
  command rfl rfl (fun h => ⟨rfl, of_decide_eq_true h⟩) rfl
theorem closeCounter (q : Byte) (l : List Byte) : Statement (.closeCounter q l) :=
  command rfl rfl (fun h => ⟨rfl, of_decide_eq_true h⟩) rfl
theorem settings (q : Byte) (l : List Byte) : Statement (.settings q l) :=
  command rfl rfl (fun h => ⟨rfl, of_decide_eq_true h⟩) rfl
theorem idleText (q : Byte) (l : List Byte) : Statement (.idleText q l) :=
  command rfl rfl (fun h => ⟨rfl, of_decide_eq_true h⟩) rfl
theorem status (q : Byte) (l : List Byte) : Statement (.status q l) :=
  command rfl rfl (fun h => ⟨rfl, of_decide_eq_true h⟩) rfl
theorem resetHub (q : Byte) (l : List Byte) : Statement (.resetHub q l) :=
  command rfl rfl (fun h => ⟨rfl, of_decide_eq_true h⟩) rfl
theorem unknownCommandKind (k q : Byte) (l : List Byte) : Statement (.unknownCommandKind k q l) := by
  refine command rfl rfl (fun h => ?_) rfl
  have g : (!namesCommand k && payloadFits l) = true := h
  rw [Bool.and_eq_true, Bool.not_eq_true'] at g
  exact ⟨row_of_unknown k q l g.1, of_decide_eq_true g.2⟩
theorem receiveFrame (bytes : List LineByte) : Statement (.receiveFrame bytes) :=
  ⟨rfl, fun _ _ e => (by cases e), fun _ _ e => by cases e⟩
theorem frameTimeout : Statement (.frameTimeout) :=
  ⟨rfl, fun _ _ e => (by cases e), fun _ _ e => by cases e⟩
theorem ctsChange (on : Bool) : Statement (.ctsChange on) :=
  ⟨rfl, fun _ _ e => (by cases e), fun _ _ e => by cases e⟩
theorem frameSent : Statement (.frameSent) :=
  ⟨rfl, fun _ _ e => (by cases e), fun _ _ e => by cases e⟩
theorem powerOnReset (straps : Straps) : Statement (.powerOnReset straps) :=
  ⟨rfl, fun _ _ e => (by cases e), fun _ _ e => by cases e⟩
theorem resetInput (straps : Straps) : Statement (.resetInput straps) :=
  ⟨rfl, fun _ _ e => (by cases e), fun _ _ e => by cases e⟩
theorem supplySample (station : Station) (code : SenseCode) : Statement (.supplySample station code) :=
  ⟨rfl, fun _ _ e => (by cases e), fun _ _ e => by cases e⟩
theorem trialPassed (station : Station) : Statement (.trialPassed station) :=
  ⟨rfl, fun _ _ e => (by cases e), fun _ _ e => by cases e⟩
theorem cooled (station : Station) : Statement (.cooled station) :=
  ⟨rfl, fun _ _ e => (by cases e), fun _ _ e => by cases e⟩
theorem supplyCleanPeriod (station : Station) : Statement (.supplyCleanPeriod station) :=
  ⟨rfl, fun _ _ e => (by cases e), fun _ _ e => by cases e⟩
theorem stepDeadline (station : Station) : Statement (.stepDeadline station) :=
  ⟨rfl, fun _ _ e => (by cases e), fun _ _ e => by cases e⟩
theorem warnDeadline (station : Station) : Statement (.warnDeadline station) :=
  ⟨rfl, fun _ _ e => (by cases e), fun _ _ e => by cases e⟩
theorem keyDeadline (station : Station) : Statement (.keyDeadline station) :=
  ⟨rfl, fun _ _ e => (by cases e), fun _ _ e => by cases e⟩
theorem restartWindow (port : Port) : Statement (.restartWindow port) :=
  ⟨rfl, fun _ _ e => (by cases e), fun _ _ e => by cases e⟩
theorem deviceCleanPeriod (port : Port) : Statement (.deviceCleanPeriod port) :=
  ⟨rfl, fun _ _ e => (by cases e), fun _ _ e => by cases e⟩
theorem supervisionExpired : Statement (.supervisionExpired) :=
  ⟨rfl, fun _ _ e => (by cases e), fun _ _ e => by cases e⟩
theorem settled : Statement (.settled) :=
  ⟨rfl, fun _ _ e => (by cases e), fun _ _ e => by cases e⟩
theorem startCap : Statement (.startCap) :=
  ⟨rfl, fun _ _ e => (by cases e), fun _ _ e => by cases e⟩
theorem busArbitrate : Statement (.busArbitrate) :=
  ⟨rfl, fun _ _ e => (by cases e), fun _ _ e => by cases e⟩
theorem resetDeviceSent : Statement (.resetDeviceSent) :=
  ⟨rfl, fun _ _ e => (by cases e), fun _ _ e => by cases e⟩
theorem exchangeMiss : Statement (.exchangeMiss) :=
  ⟨rfl, fun _ _ e => (by cases e), fun _ _ e => by cases e⟩
theorem probeAnswer (a : List Byte) : Statement (.probeAnswer a) :=
  ⟨rfl, fun _ _ e => (by cases e), fun h _ e => by cases e; exact of_decide_eq_true h⟩
theorem identifyAnswer (a : List Byte) : Statement (.identifyAnswer a) :=
  ⟨rfl, fun _ _ e => (by cases e), fun h _ e => by cases e; exact of_decide_eq_true h⟩
theorem configureAnswer (a : List Byte) : Statement (.configureAnswer a) :=
  ⟨rfl, fun _ _ e => (by cases e), fun h _ e => by cases e; exact of_decide_eq_true h⟩
theorem pollAnswer (a : List Byte) : Statement (.pollAnswer a) :=
  ⟨rfl, fun _ _ e => (by cases e), fun h _ e => by cases e; exact of_decide_eq_true h⟩
theorem diagAnswer (a : List Byte) : Statement (.diagAnswer a) :=
  ⟨rfl, fun _ _ e => (by cases e), fun h _ e => by cases e; exact of_decide_eq_true h⟩

end Sys2Proof.Laws.OperandCheck
end

