-- ==== Sys2Proof/Laws/Rows.lean ====
section
/-! SUPPORT. Every command is a chain of changes (Laws/Changes.lean): one lemma for each owner's effect, and then one for
exec and one for step. -/

namespace Sys2Proof.Machine

variable {A : Rights} (s : State) (f : Frame)

/-! ### Sessions -/

theorem edited_extendDeadlines (st : Station) (n : Nat) : Edited .all s (s.extendDeadlines st n) := by
  unfold State.extendDeadlines
  split
  · exact .refl
  · split
    · exact .refl
    · unfold State.moveWarning
      dsimp only
      split
      · exact .place _ _ _ (.place _ _ _ .refl trivial) trivial
      · exact edited_ite (.place _ _ _ (.place _ _ _ .refl trivial) trivial) (.place _ _ _ .refl trivial)

theorem edited_engageNeeded (st : Station) (l : List StepRecord) : Edited .all s (s.engageNeeded st l) := by
  have e : Edited .all s (if needsReader l then s.engage (readerOf st) else s) :=
    edited_ite (edited_engage _ _ trivial) .refl
  exact e.trans (edited_ite (edited_engage _ _ trivial) .refl)

/-- Digits read are as many as their bytes, each 0..9 (R192). -/
theorem digitsOf_some {l : List Byte} {d : Digits} (h : digitsOf l = some d) : d.length = l.length ∧ ∀ x ∈ d, x ≤ 9 := by
  induction l generalizing d with
  | nil => cases h; simp
  | cons b rest ih =>
    rw [digitsOf] at h
    split at h
    · rename_i g
      obtain ⟨d', e, rfl⟩ := Option.map_eq_some_iff.1 h
      obtain ⟨a, c⟩ := ih e
      refine ⟨by simp [a], fun x hx => ?_⟩
      rcases List.mem_cons.1 hx with rfl | hx
      · exact g
      · exact c x hx
    · cases h

theorem State.append_setSupply (i : Item) (st : Station) (r : Supply) :
    (s.append i).setSupply st r = (s.setSupply st r).append i := rfl

theorem settingInRange_put (x : Settings) (n : SettingName) (v : Nat) (h : x.inRange) :
    (x.put n (settingInRange n v).value).inRange := by
  obtain ⟨a, b, c, d, e, g, i⟩ := h
  cases n <;> simp only [Settings.put, settingInRange, normaliseThreshold]
  · exact ⟨clamp_range 1 14 v (by omega), b, c, d, e, g, i⟩
  · exact ⟨a, clamp_range 2 60 v (by omega), c, d, e, g, i⟩
  · exact ⟨a, b, (clamp_range 0 7 v (by omega)).2, d, e, g, i⟩
  · have := clamp_range 100 1500 v (by omega)
    exact ⟨a, b, c, ⟨by dsimp only; omega, by dsimp only; omega, by dsimp only; omega⟩, e, g, i⟩
  · have := clamp_range 10 200 v (by omega)
    exact ⟨a, b, c, d, ⟨by dsimp only; omega, by dsimp only; omega, by dsimp only; omega⟩, g, i⟩
  · exact ⟨a, b, c, d, e, clamp_range 10 600 v (by omega), i⟩
  · exact ⟨a, b, c, d, e, g, (clamp_range 0 300 v (by omega)).2⟩

/-- Settings stored lie in their ranges (R174). -/
theorem Settings.store_inRange (x : Settings) (l : List (SettingName × Nat)) (h : x.inRange) : (x.store l).inRange := by
  induction l generalizing x with
  | nil => exact h
  | cons y ys ih => exact ih _ (settingInRange_put x y.1 y.2 h)

theorem changed_putIdleText (hA : A.store) (st : Station) (x : Text) : Changed A s (s.putIdleText st x) := by
  unfold State.putIdleText
  dsimp only
  have c : Changed A s { s with idleTexts := s.idleTexts.set st.val x } := .one (.texts _ s.closedText hA)
  split
  · exact c.trans (.edit (B := .all) (edited_textToFreeKeypad _ st x trivial))
  · exact c

theorem changed_putText (hA : A.store) (x : Text) (target : TextTarget) : Changed A s (s.putText x target) := by
  unfold State.putText
  split
  · unfold State.forStations
    generalize stations = l
    induction l generalizing s with
    | nil => exact .refl
    | cons y ys ih => exact (changed_putIdleText s hA y x).trans (ih _)
  · exact changed_putIdleText s hA _ x
  · unfold State.putClosedText
    dsimp only
    have c : Changed A s { s with closedText := x } := .one (.texts s.idleTexts x hA)
    split
    · exact c.trans (.ofEdited (edited_forStations fun st t => edited_textToFreeKeypad t st x trivial))
    · exact c

section Commands

variable (h : s.repliesStanding + s.repliesAwaited < 8)

include h

theorem changed_openSession (q : OpenRequest) : Changed A s (s.openSession f q) := by
  unfold State.openSession
  dsimp only
  split
  · exact changed_refuse s f _ h
  · rename_i st _
    split
    · exact changed_refuse s f _ h
    · unfold State.takeSession
      dsimp only
      refine .trans ?_ (.edit (edited_enterStarting _ st 1))
      refine .trans ?_ (.ofEdited (edited_engageNeeded _ st _))
      exact .trans (.edit (edited_modifySession s st _)) (changed_answer _ f _ _ _ h)

theorem changed_cancelSession (q : Byte × Nat) : Changed A s (s.cancelSession f q) := by
  unfold State.cancelSession
  split
  · exact changed_refuse s f _ h
  · split
    · exact changed_refuse s f _ h
    · unfold State.cancelAt
      split
      · exact (changed_answer s f _ _ _ h).trans (.edit (edited_enterEnding _ _ _))
      · exact (changed_answer s f _ _ _ h).trans (.edit (edited_modifySession _ _ _))
      · exact changed_refuse s f _ h
      · exact changed_refuse s f _ h

theorem changed_extendStep (q : Byte × Nat × Nat) : Changed A s (s.extendStep f q) := by
  unfold State.extendStep
  cases stationOfByte q.1 with
  | none => exact changed_refuse s f _ h
  | some st =>
    dsimp only
    split
    · exact changed_refuse s f _ h
    · split
      · exact changed_refuse s f _ h
      · have e := (edited_extendDeadlines s st ((s.session st).grant (clamp 1 600 q.2.2).value)).trans
          (edited_modifySession (st := st) _ fun r => { r with extension := r.extension + (s.session st).grant (clamp 1 600 q.2.2).value }).all
        refine .trans (.edit e) (changed_answer _ f _ _ _ ?_)
        rw [e.repliesStanding]
        unfold State.repliesAwaited
        rw [e.untouched.pendingDirect, e.untouched.flight]
        exact h

/-! ### The policy table and the store -/

theorem changed_policyLoad (hA : A.store) (payload : List Byte) (q : LoadRequest) (e : loadRequestOf payload = some q) :
    Changed A s (s.policyLoad f q) := by
  unfold State.policyLoad
  dsimp only
  split
  · exact changed_answer s f _ _ _ h
  · rename_i g
    simp only [not_or, Bool.not_eq_false] at g
    split
    · exact changed_answer s f _ _ _ h
    · rename_i table replaced k
      refine .trans (.one (.table table hA ?_)) (changed_answer _ f _ _ _ h)
      have good : PolicyEntry.good ⟨q.key, (normalisePolicy q.policy).value⟩ := by
        have r := normalisePolicy_inRange q.policy g.2.2
        unfold loadRequestOf at e
        split at e
        · rename_i n rest
          split at e
          · rename_i key p hk hp
            split at e
            · cases e
              dsimp only at *
              have l := digitsOf_some hk
              refine ⟨?_, ?_, l.2, r⟩ <;> simp only [l.1, List.length_take] <;> omega
            · cases e
          · cases e
        · cases e
      unfold loadEntry at k
      split at k
      · cases k
        rintro ⟨a, b, c⟩
        refine ⟨replaceEntry_ordered _ _ a, by simpa [replaceEntry] using b, fun x hx => ?_⟩
        rcases mem_replaceEntry _ _ _ hx with rfl | hx
        · exact good
        · exact c x hx.1
      · rename_i nk
        split at k
        · cases k
        · rename_i len
          cases k
          rintro ⟨a, b, c⟩
          refine ⟨insertPolicy_ordered _ _ (by simpa using nk) a, ?_, fun x hx => ?_⟩
          · rw [length_insertPolicy]
            have : ¬32 ≤ s.policy.length := len
            omega
          · rcases (mem_insertPolicy _ _ _).1 hx with rfl | hx
            · exact good
            · exact c x hx

theorem changed_policyDrop (hA : A.store) (key : Digits) : Changed A s (s.policyDrop f key) := by
  unfold State.policyDrop
  split
  · exact changed_answer s f _ _ _ h
  · split
    · refine .trans (.one (.table _ hA ?_)) (changed_answer _ f _ _ _ h)
      rintro ⟨a, b, c⟩
      refine ⟨a.sublist List.filter_sublist, Nat.le_trans List.filter_sublist.length_le b, fun x hx => ?_⟩
      exact c x (List.mem_filter.1 hx).1
    · exact changed_answer s f _ _ _ h

theorem changed_policyList (b : Byte) : Changed A s (s.policyList f b) := changed_answer s f _ _ _ h

theorem changed_replaceDefault (hA : A.store) (q : Policy) : Changed A s (s.replaceDefault f q) := by
  unfold State.replaceDefault
  dsimp only
  split
  · rename_i g
    exact .trans (.one (.default _ hA (normalisePolicy_inRange q g))) (changed_answer _ f _ _ _ h)
  · exact changed_refuse s f _ h

theorem changed_setDate (hA : A.store) (q : Byte × Byte) : Changed A s (s.setDate f q) := by
  unfold State.setDate
  split
  · exact changed_refuse s f _ h
  · exact .trans (.one (.month _ hA)) (changed_answer _ f _ _ _ h)

/-! ### Devices and supplies -/

theorem changed_deviceInfo (b : Byte) : Changed A s (s.deviceInfo f b) := by
  unfold State.deviceInfo
  split
  · exact changed_refuse s f _ h
  · exact changed_answer s f _ _ _ h

theorem changed_deviceRelease (b : Byte) : Changed A s (s.deviceRelease f b) := by
  unfold State.deviceRelease
  split
  · exact changed_refuse s f _ h
  · rename_i p _
    split
    · refine (changed_answer s f .done false [] h).trans (.edit (B := .all) ?_)
      unfold State.releaseHeld
      exact ((edited_modifyDevice _ p _ trivial (Nat.zero_le _)).trans (edited_changePort _ p _ _ trivial)).trans
        (edited_dueNow _ p trivial)
    · exact changed_refuse s f _ h

theorem changed_directExchange (q : Byte × List Byte) : Changed A s (s.directExchange f q) := by
  unfold State.directExchange
  split
  · exact changed_refuse s f _ h
  · split
    · exact changed_refuse s f _ h
    · split
      · exact changed_refuse s f _ h
      · exact .one (.direct _ h)

theorem changed_supplyOff (b : Byte) : Changed A s (s.supplyOff f b) := by
  unfold State.supplyOff
  split
  · exact changed_refuse s f _ h
  · rename_i st _
    split
    · exact changed_answer s f _ _ _ h
    · unfold State.offSupply
      dsimp only
      have sw : (s.supply st).state ≠ .locked →
          Changed A s ((s.supplyReply f .off (s.supply st).tripCount).switchOff st true .switchedOff) := fun g =>
        (changed_answer s f _ _ _ h).trans (.edit (edited_switchOff _ st true .switchedOff g))
      split
      · exact changed_answer s f _ _ _ h
      · refine .trans (.edit (B := .all) (edited_modifySupply s st _ trivial rfl rfl)) (changed_answer _ f _ _ _ h)
      · exact sw (by simp [*])
      · exact sw (by simp [*])
      · exact sw (by simp [*])

theorem changed_supplyRestore (hA : A.restore) (b : Byte) : Changed A s (s.supplyRestore f b) := by
  unfold State.supplyRestore
  split
  · exact changed_refuse s f _ h
  · rename_i st _
    have closed : Changed A s (s.restoreClosed f st) := by
      unfold State.restoreClosed
      dsimp only
      refine .trans (.trans (.one (.restored st _ hA ?_ ?_)) (changed_answer _ f _ _ _ h))
        (.edit (B := .all) (edited_ite .refl (edited_noteSupply _ st _ _)))
      · simp
      · rfl
    have trial : ((s.supply st).state = .off ∨ (s.supply st).state = .locked) → Changed A s (s.restoreTrial f st) := by
      refine fun _ => .trans (t := (s.setSupply st { s.supply st with
          state := .trial, tripCount := 0, overRun := 0, heldOff := false }).answer f .done false [SupplyState.trial.code, 0])
        (.trans (.one (.restored st _ hA (by simp) rfl)) (changed_answer _ f _ _ _ h)) ?_
      unfold State.restoreTrial State.enterTrial
      dsimp only
      have c : (((s.modifySupply st fun r => { r with tripCount := 0, heldOff := false }).supplyReply f .trial 0).modifySupply st
          fun r => { r with state := .trial, overRun := 0 }) = (s.setSupply st { s.supply st with
          state := .trial, tripCount := 0, overRun := 0, heldOff := false }).answer f .done false [SupplyState.trial.code, 0] := by
        unfold State.modifySupply State.supplyReply State.answer State.reply
        rw [State.append_setSupply, State.setSupply_setSupply]
        simp [byteOf]
      rw [c]
      exact .edit (((edited_setDraw _ st false).trans (edited_placeDeadline _ (.supply st) .supply _ rfl)).trans
        (edited_noteSupply _ st _ _))
    split
    · split
      · exact closed
      · exact trial (.inl (by assumption))
    · split
      · exact closed
      · exact trial (.inr (by assumption))
    · exact changed_answer s f _ _ _ h
    · exact changed_answer s f _ _ _ h
    · exact changed_answer s f _ _ _ h

/-! ### The counter -/

theorem changed_dozeCounter (m : Vector WakeFlags 8) : Changed A s (s.dozeCounter f m) := by
  unfold State.dozeCounter
  split
  · exact .trans (.one (.mask m)) (changed_answer _ f _ _ _ h)
  · split
    · refine .trans (.trans (.one (.mask m)) (changed_answer _ f .done false [] h)) (.edit (B := .devices) ?_)
      unfold State.enterLull
      exact (((edited_removeSupervision _ trivial).trans (.owedTexts _ .refl trivial)).trans
        (edited_changeCounter _ _ _ trivial)).trans (edited_dozeDevices _)
    · exact changed_refuse s f _ h
  all_goals exact changed_refuse s f _ h

theorem changed_openCounter : Changed A s (s.openCounter f) := by
  unfold State.openCounter
  split
  · exact changed_refuse s f _ h
  · exact changed_answer s f _ _ _ h
  · exact changed_answer s f _ _ _ h
  · exact (changed_answer s f .done false [] h).trans (.edit (edited_wake _ _))
  · exact (changed_answer s f .done false [] h).trans
      (.edit ((edited_enterWaking (A := .all) _ _ _ trivial).trans (edited_startSupplies _ _)))
  · exact (changed_answer s f .done false [] h).trans (.edit (edited_reopen _))

theorem changed_closeCounter : Changed A s (s.closeCounter f) := by
  have close : Changed A s ((s.answer f .done false []).enterClosed) := by
    refine (changed_answer s f .done false [] h).trans (.ofEdited ?_)
    unfold State.enterClosed
    exact ((((edited_removeSupervision _ trivial).trans (edited_removeSettle _ trivial)).trans (.owedTexts _ .refl trivial)).trans
      (edited_changeCounter _ _ _ trivial)).trans (edited_closeSupplies _)
  unfold State.closeCounter
  split
  · exact changed_refuse s f _ h
  · exact changed_answer s f _ _ _ h
  all_goals
    split
    · exact close
    · exact changed_refuse s f _ h

theorem changed_changeSettings (hA : A.store) (q : List (Byte × Nat)) : Changed A s (s.changeSettings f q) := by
  unfold State.changeSettings
  split
  · exact changed_refuse s f _ h
  · rename_i l _
    split
    · exact .trans (.one (.settings _ hA (Settings.store_inRange _ l))) (changed_answer _ f _ _ _ h)
    · exact changed_refuse s f _ h

theorem changed_changeText (hA : A.store) (q : Byte × Text) : Changed A s (s.changeText f q) := by
  unfold State.changeText
  split
  · exact changed_refuse s f _ h
  · exact (changed_answer s f _ _ _ h).trans (changed_putText _ hA _ _)

theorem changed_askHubReset (k : ResetKind) : Changed A s (s.askHubReset f k) :=
  .trans (.one (.asked k)) (changed_answer _ f _ _ _ h)

end Commands

/-! ### The link -/

theorem changed_receiveByte (b : LineByte) : Changed A s (s.receiveByte b) := by
  have hunt : ∀ s : State, Changed A s (s.huntByte b) := fun s => by
    unfold State.huntByte
    split
    · exact .one (.line _ _ _ _ _)
    · exact .refl
  unfold State.receiveByte
  split
  · exact hunt s
  · split
    · unfold State.frameByte
      dsimp only
      split
      · exact .one (.line _ _ _ _ _)
      · split
        · exact .one (.line _ _ _ _ _)
        · exact .one (.line _ _ _ _ _)
        · exact .trans (.one (.line _ .hunting _ _ _)) (changed_goodFrame _ _)
    · exact .trans (.one (.line _ .hunting _ _ _)) (hunt _)

theorem changed_receiveBytes (l : List LineByte) : Changed A s (s.receiveBytes l) := by
  unfold State.receiveBytes
  induction l generalizing s with
  | nil => exact .refl
  | cons b bs ih => exact (changed_receiveByte s b).trans (ih _)

theorem changed_timeOutFrame (hA : A.clock) : Changed A s s.timeOutFrame := by
  unfold State.timeOutFrame
  split
  · exact .refl
  · split
    · rename_i e
      exact (changed_reach s hA e).trans (.one (.line _ _ _ _ _))
    · exact .refl

/-- The entry to STARTING (R164). -/
theorem changed_enterStartingCounter (hA : A.reset) (before : CounterState) (reason : CounterReason) :
    Changed A s (s.enterStartingCounter before reason) := by
  unfold State.enterStartingCounter
  dsimp only
  refine .trans (.one (.record hA)) (.ofEdited ?_)
  exact ((((edited_noteCounter _ _ _ _).trans (edited_startSupplies _ _)).trans (.await _ .refl trivial)).trans
    ((edited_placeDeadline (A := .all) _ .counter _ _ trivial).trans (edited_placeDeadline (A := .all) _ .counter _ _ trivial))).trans
    (edited_openIfProbed _ trivial)

theorem changed_resetEffect (hA : A.reset) (k : ResetKind) (hk : k = .full → A.store) : Changed A s (s.resetEffect k) := by
  have w : Changed A s (s.wiped.forPorts fun p s => if (s.device p).state = PortState.absent then s.dueNow p else s.setDue p none) :=
    .trans (.one (.wiped hA)) (.ofEdited (edited_forPorts fun p t =>
      edited_ite (edited_dueNow t p trivial) (.due p _ .refl trivial)))
  cases k with
  | soft => exact w.trans (changed_enterStartingCounter _ hA _ _)
  | full => exact (w.trans (.one (.storeReset (hk rfl)))).trans (changed_enterStartingCounter _ hA _ _)

/-- What may follow a frame's leaving the line: a reset takes effect only when one is pending (R178). -/
theorem changed_frameLeft (hA : A.reset) (hk : s.resetPending = some .full → A.store) : Changed A s s.frameLeft := by
  unfold State.frameLeft
  split
  · exact .refl
  · refine .trans (.one .sent) ?_
    unfold State.reportSent
    split
    · exact .refl
    · split
      · rename_i r e
        split
        · exact changed_resetEffect _ hA r fun g => hk (by rw [← g]; exact e)
        · exact .refl
      · exact .refl
    · exact .trans (.edit (edited_resultLeft _ _)) (.edit (edited_stationLineFree _ _))
    · exact .edit (edited_stationLineFree _ _)
    · exact .refl

/-! ### The counter bus -/

theorem changed_carryDue (h : s.flight = none) : Changed A s s.carryDue := by
  unfold State.carryDue
  split
  · exact .refl
  · rename_i p _
    split
    · rename_i r _
      unfold State.beginExchange
      dsimp only
      have e1 : Edited .all s (s.setDue p none) := .due p _ .refl trivial
      have e2 : Edited .all s (if ((s.device p).carriedBy r).isSome then
          (s.setDue p none).setDevice p { s.device p with inCarriage := true } else s.setDue p none) :=
        edited_ite (.device p _ e1 trivial (.inl (Nat.le_refl _))) e1
      have e3 : Edited .all s (if r = .resetDevice then (if ((s.device p).carriedBy r).isSome then
          (s.setDue p none).setDevice p { s.device p with inCarriage := true } else s.setDue p none).setOwed p none
          else if ((s.device p).carriedBy r).isSome then
          (s.setDue p none).setDevice p { s.device p with inCarriage := true } else s.setDue p none) :=
        edited_ite (.owed p _ e2 trivial) e2
      exact .trans (.ofEdited e3) (.one (.carried _ (e3.untouched.flight.trans h) rfl))
    · exact .refl

theorem changed_arbitrate (hA : A.clock) : Changed A s s.arbitrate := by
  unfold State.arbitrate
  split
  · exact .refl
  · rename_i h
    have hf : s.flight = none := by simpa using h
    split
    · rename_i x hx
      unfold State.carryDirect
      split
      · unfold State.beginDirect
        dsimp only
        exact .trans (.ofEdited (.due x.port none .refl trivial)) (.one (.diag _ (by simp [hx]) hf))
      · exact .trans (.one (.withdrawn _ rfl (by simp [hx]))) (changed_carryDue _ hf)
    · split
      · exact changed_carryDue s hf
      · split
        · rename_i u e
          obtain ⟨t, -, e⟩ := Option.bind_eq_some_iff.1 e
          refine (changed_reach s hA e).trans (changed_carryDue _ ?_)
          rw [(State.reach_some e).1]
          exact hf
        · exact .refl

theorem changed_resetSent : Changed A s s.resetSent := by
  unfold State.resetSent
  split
  · split
    · exact .trans (.one .ended) (.ofEdited (edited_dueAfterExchange _ _ trivial))
    · exact .refl
  · exact .refl

theorem changed_endExchange (f : Flight) (a : Option Answer) (h : s.flight = some f) : Changed A s (s.endExchange f a) := by
  have r : Changed A s ({ s with flight := none }.directReply f a) := by
    unfold State.directReply
    split
    · rename_i q x e
      exact .one (.answered _ f rfl h (by simp [e]))
    · rename_i q e
      exact .one (.answered _ f rfl h (by simp [e]))
    · exact .one .ended
  unfold State.endExchange
  dsimp only
  refine .trans ?_ (.ofEdited ((edited_reportProbe _ f trivial).trans (edited_dueAfterExchange _ _ trivial)))
  cases a with
  | none => exact r.trans (.edit (edited_missTaken _ _))
  | some x => exact r.trans (.edit (edited_answerTaken _ f x))

theorem changed_missed : Changed A s s.missed := by
  unfold State.missed
  split
  · rename_i f h
    split
    · exact .refl
    · exact changed_endExchange s f none h
  · exact .refl

theorem changed_answered (r : Request) (frame : List Byte) : Changed A s (s.answered r frame) := by
  unfold State.answered
  split
  · rename_i f h
    split
    · exact changed_endExchange s f _ h
    · exact .refl
  · exact .refl

/-! ### The supplies -/

theorem changed_sampleAtSlot (hA : A.clock) (st : Station) (c : SenseCode) : Changed A s (s.sampleAtSlot st c) := by
  unfold State.sampleAtSlot
  split
  · rename_i h
    split
    · rename_i u e
      unfold State.reachSlot at e
      split at e
      · cases e
      · rename_i d _
        obtain ⟨v, ev, rfl⟩ := Option.map_eq_some_iff.1 e
        refine .trans (.trans (changed_reach s hA ev) (.one (.clock v.tick true (v.sense.set st.val c) v.supplies v.nextDue hA fun _ => ⟨rfl, rfl⟩)))
          (.edit (B := .power st) ?_)
        refine edited_takeSample _ st c ?_
        show (v.supply st).state ≠ .locked
        rw [(State.reach_keeps ev st).1]
        intro g
        rw [g] at h
        cases h
    · exact .refl
  · exact .refl

/-! ### Every command -/

/-- What a command may do besides its edits. A frame that leaves the line may let a reset take effect (R178); the commands
of the workstation leave the clock. -/
def rightsOf (s : State) : Instr → Rights
  | .policyLoad .. | .policyDrop .. | .defaultPolicy .. | .setDate .. | .settings .. | .idleText .. =>
    ⟨False, True, False, False, False⟩
  | .supplyRestore .. => ⟨False, False, True, False, False⟩
  | .frameSent => ⟨False, s.resetPending = some .full, False, True, False⟩
  | .powerOnReset _ | .resetInput _ => ⟨False, False, False, False, True⟩
  | .frameTimeout | .supplySample .. | .trialPassed _ | .cooled _ | .supplyCleanPeriod _ | .stepDeadline _
  | .warnDeadline _ | .keyDeadline _ | .restartWindow _ | .deviceCleanPeriod _ | .supervisionExpired | .settled
  | .startCap | .busArbitrate => ⟨True, False, False, False, False⟩
  | _ => ⟨False, False, False, False, False⟩

/-- What a command does is a chain of changes within its rights. -/
theorem exec_changed (i : Instr) {t : State} (h : exec i s = .next t) : Changed (rightsOf s i) s t := by
  have command : ∀ {α : Type} {A : Rights} (f : Frame) (x : Option α) (owner : State → α → State),
      (∀ s : State, s.repliesStanding + s.repliesAwaited < 8 → ∀ a, x = some a → Changed A s (owner s a)) →
      commandRow f (fun s => s.withFields f x (owner s)) s = .next t → Changed A s t :=
    fun f x owner g e => changed_commandRow s f _ (fun s h => changed_withFields s f x (owner s) h (g s h)) e
  cases i with
  | openSession q l => exact command _ _ _ (fun s h a _ => changed_openSession s _ h a) h
  | cancelSession q l => exact command _ _ _ (fun s h a _ => changed_cancelSession s _ h a) h
  | extendStep q l => exact command _ _ _ (fun s h a _ => changed_extendStep s _ h a) h
  | policyLoad q l => exact command _ _ _ (fun s h a e => changed_policyLoad s _ h trivial l a e) h
  | policyDrop q l => exact command _ _ _ (fun s h a _ => changed_policyDrop s _ h trivial a) h
  | policyList q l => exact command _ _ _ (fun s h a _ => changed_policyList s _ h a) h
  | defaultPolicy q l => exact command _ _ _ (fun s h a _ => changed_replaceDefault s _ h trivial a) h
  | setDate q l => exact command _ _ _ (fun s h a _ => changed_setDate s _ h trivial a) h
  | deviceInfo q l => exact command _ _ _ (fun s h a _ => changed_deviceInfo s _ h a) h
  | deviceRelease q l => exact command _ _ _ (fun s h a _ => changed_deviceRelease s _ h a) h
  | directExchange q l => exact command _ _ _ (fun s h a _ => changed_directExchange s _ h a) h
  | supplyOff q l => exact command _ _ _ (fun s h a _ => changed_supplyOff s _ h a) h
  | supplyRestore q l => exact command _ _ _ (fun s h a _ => changed_supplyRestore s _ h trivial a) h
  | dozeCounter q l => exact command _ _ _ (fun s h a _ => changed_dozeCounter s _ h a) h
  | openCounter q l => exact command _ _ (fun s _ => s.openCounter _) (fun s h _ _ => changed_openCounter s _ h) h
  | closeCounter q l => exact command _ _ (fun s _ => s.closeCounter _) (fun s h _ _ => changed_closeCounter s _ h) h
  | settings q l => exact command _ _ _ (fun s h a _ => changed_changeSettings s _ h trivial a) h
  | idleText q l => exact command _ _ _ (fun s h a _ => changed_changeText s _ h trivial a) h
  | status q l =>
    exact command _ _ (fun s _ => s.answer _ .done false (statusData s)) (fun s h _ _ => changed_answer s _ _ _ _ h) h
  | resetHub q l => exact command _ _ _ (fun s h a _ => changed_askHubReset s _ h a) h
  | unknownCommandKind k q l =>
    unfold exec execUnknownCommandKind at h
    dsimp only at h
    split at h
    · cases h; exact .refl
    · exact changed_commandRow s _ _ (fun s g => changed_refuse s _ _ g) h
  | receiveFrame l => exact changed_eventRow s (fun s => s.receiveBytes l) (changed_receiveBytes s l) h
  | frameTimeout => exact changed_eventRow s _ (changed_timeOutFrame s trivial) h
  | ctsChange on => exact changed_eventRow s (fun s => { s with cts := on }) (.one (.line on _ _ _ _)) h
  | frameSent => exact changed_eventRow s _ (changed_frameLeft s trivial id) h
  | powerOnReset x => exact changed_eventRow s (fun s => s.powerOn x) (.one (.power x trivial)) h
  | resetInput x => exact changed_eventRow s (fun s => s.powerOn x) (.one (.power x trivial)) h
  | supplySample st c => exact changed_eventRow s _ (changed_sampleAtSlot s trivial st c) h
  | trialPassed st =>
    exact changed_eventRow s _ (changed_expire s _ _ _ _ trivial fun g u _ _ e _ =>
      .edit (edited_trialOver u st (by rw [e]; simpa using g))) h
  | cooled st =>
    exact changed_eventRow s _ (changed_expire s _ _ _ _ trivial fun g u _ _ e _ =>
      .edit (edited_enterTrial u st _ (by rw [e]; simp only [beq_iff_eq] at g; simp [g]))) h
  | supplyCleanPeriod st =>
    exact changed_eventRow s _ (changed_expire s _ _ _ _ trivial fun g u _ _ e _ =>
      .edit (edited_supplyClean u st (by rw [e]; simpa using g))) h
  | stepDeadline st =>
    refine changed_eventRow s _ (changed_expire s _ _ _ _ trivial fun g u _ _ _ _ => ?_) h
    unfold State.stepExpired
    split
    · exact .edit (edited_deliver u st _)
    · exact .edit (edited_enterEnding u st _)
  | warnDeadline st =>
    exact changed_eventRow s _ (changed_expire s _ _ _ _ trivial fun g u _ _ _ _ =>
      .edit (((edited_modifySession u st _).trans (edited_noteProgress _ st)).trans (edited_beep _ st _))) h
  | keyDeadline st =>
    exact changed_eventRow s _ (changed_expire s _ _ _ _ trivial fun g u _ _ _ _ => .edit (edited_enterEnding u st _)) h
  | restartWindow p =>
    exact changed_eventRow s _ (changed_expire s _ _ _ _ trivial fun g u _ _ _ _ =>
      .ofEdited (edited_restartAgain u p trivial)) h
  | deviceCleanPeriod p =>
    exact changed_eventRow s _ (changed_expire s _ _ _ _ trivial fun g u _ _ _ _ =>
      .ofEdited (edited_modifyDevice u p _ trivial (Nat.zero_le _))) h
  | supervisionExpired =>
    exact changed_eventRow s _ (changed_expire s _ _ _ _ trivial fun g u _ _ _ _ => .edit (edited_enterOrphaned u)) h
  | settled =>
    exact changed_eventRow s _ (changed_expire s _ _ _ _ trivial fun g u _ _ _ _ =>
      .ofEdited (edited_settleComplete u trivial)) h
  | startCap =>
    exact changed_eventRow s _ (changed_expire s _ _ _ _ trivial fun g u _ _ _ _ =>
      .ofEdited (edited_openFromStarting u _ trivial)) h
  | busArbitrate => exact changed_eventRow s _ (changed_arbitrate s trivial) h
  | resetDeviceSent => exact changed_eventRow s _ (changed_resetSent s) h
  | exchangeMiss => exact changed_eventRow s _ (changed_missed s) h
  | probeAnswer l => exact changed_eventRow s (fun s => s.answered .probe l) (changed_answered s _ l) h
  | identifyAnswer l => exact changed_eventRow s (fun s => s.answered .identify l) (changed_answered s _ l) h
  | configureAnswer l => exact changed_eventRow s (fun s => s.answered .configure l) (changed_answered s _ l) h
  | pollAnswer l => exact changed_eventRow s (fun s => s.answered .poll l) (changed_answered s _ l) h
  | diagAnswer l => exact changed_eventRow s (fun s => s.answered .diag l) (changed_answered s _ l) h

/-- All rights. -/
def Rights.all : Rights := ⟨True, True, True, True, True⟩

theorem Changed.all {A : Rights} {s t : State} (h : Changed A s t) : Changed .all s t := by
  induction h with
  | refl => exact .refl
  | step _ c ih =>
    refine .step ih ?_
    cases c with
    | edited e => exact .edited e
    | start => exact .start
    | clock t b v r n _ a => exact .clock t b v r n trivial a
    | line c r i f h => exact .line c r i f h
    | sent => exact .sent
    | reply i a b => exact .reply i a b
    | direct x a => exact .direct x a
    | withdrawn i a b => exact .withdrawn i a b
    | diag f a b => exact .diag f a b
    | carried f a b => exact .carried f a b
    | ended => exact .ended
    | answered i f a b c => exact .answered i f a b c
    | expired e rest a => exact .expired e rest a
    | mask m => exact .mask m
    | asked k => exact .asked k
    | restored st r _ a b => exact .restored st r trivial a b
    | table l _ a => exact .table l trivial a
    | default p _ a => exact .default p trivial a
    | month m _ => exact .month m trivial
    | texts i c _ => exact .texts i c trivial
    | settings x _ a => exact .settings x trivial a
    | wiped _ => exact .wiped trivial
    | storeReset _ => exact .storeReset trivial
    | record _ => exact .record trivial
    | power x _ => exact .power x trivial

/-- A step is a chain of changes from the state with the queue's rest. -/
theorem step_changed {t : State} (h : step s = .next t) :
    ∃ q, Changed .all { s with pending := q } t := by
  unfold step at h
  split at h
  · rename_i i rest _
    exact ⟨rest, (exec_changed _ i h).all⟩
  · refine ⟨s.pending, ?_⟩
    split at h
    · rename_i i _
      exact (exec_changed s i h).all
    · cases h
      exact .one (.clock _ _ s.sense s.supplies _ trivial fun _ => ⟨rfl, rfl⟩)

/-- A property that does not read the queue, and that every change keeps, is kept by every step. -/
theorem step_keeps {P : State → Prop} (hq : ∀ (s : State) (q : List Instr), P s → P { s with pending := q })
    (hc : ∀ s t, Change .all s t → P s → P t) {t : State} (h : step s = .next t) (hs : P s) : P t := by
  obtain ⟨q, c⟩ := step_changed s h
  exact c.kept hc (hq s q hs)

end Sys2Proof.Machine
end

