-- ==== Sys2Proof/Tests/Slice0.lean ====
section
/-! SUPPORT. Tests: the operand check refuses ill-formed terms, the worked examples of the spec, and for each statement
with hypotheses a witness that meets them (named witness_<statement>), most with what the command then does. -/

set_option Elab.async false

namespace Sys2Proof.Tests

open Sys2Proof Sys2Proof.Machine

/-! ### Helpers -/

/-- Whether an outcome is a next state with a property. -/
def yes (o : Host.Outcome State Fault Refusal) (p : State → Bool) : Bool :=
  match o with
  | .next t => p t
  | _ => false

/-- A counter that is OPEN, with every supply ON, every device READY, and nothing standing. -/
def calm : State :=
  { State.reset with
    outbound := [], deadlines := [], counter := .opened, awaiting := Vector.replicate 16 false,
    supplies := Vector.replicate 8 { Supply.blank with state := .on },
    devices := Vector.replicate 16 { Device.blank with state := .ready } }

/-- A frame at the head of the intake. -/
def taking (s : State) (k q : Byte) (l : List Byte) : State := { s with intake := [⟨k, q, l⟩] }

/-- A device in a port state. -/
def inState (s : State) (p : Port) (x : PortState) : State := s.modifyDevice p fun d => { d with state := x }

/-- A supply in a state. -/
def supplyIn (s : State) (st : Station) (x : SupplyState) (trips : Nat) : State :=
  s.setSupply st { Supply.blank with state := x, tripCount := trips }

/-- A session RUNNING at a phase of the first of some steps, with tag 7. -/
def running (s : State) (st : Station) (phase : Phase) (steps : List StepRecord) : State :=
  s.setSession st { Session.blank with
    state := .running, tag := some 7, mode := some .phases, steps := steps, index := some 1, phase := some phase,
    serial := 1 }

/-- A session ENDING, with tag 7. -/
def ending (s : State) (st : Station) : State :=
  s.setSession st { Session.blank with state := .ending, tag := some 7, endCause := some .timedOut }

/-- The text owed to station 1, the counter in a state. -/
def owing (s : State) (x : OwedText) (c : CounterState) : State :=
  { s with textOwed := (Vector.replicate 8 none).set 0 (some x), counter := c }

/-- The head of the deadline list. -/
def dueAt (s : State) (o : Owner) (k : DeadlineKind) (d : Tick) : State := { s with deadlines := [⟨o, k, d⟩] }

/-- An exchange in flight. -/
def flying (s : State) (p : Port) (r : Request) : State := { s with flight := some ⟨p, r, none, false, none, []⟩ }

/-- A good answer frame (section 11.6). -/
def answerFrame (p : Port) (status flags : Byte) (contents : List Byte) : List Byte :=
  let body := [status, 0xFF, 0xFF, 0xFF, flags] ++ contents
  let counted := addressByte p :: byteOf body.length :: body
  0x5A :: counted ++ crcBytes counted

/-- A good answer as it is read. -/
def awake (batch taken : Bool) (c : Contents) : Answer := ⟨⟨true, false, []⟩, batch, taken, false, c⟩

def cardStep : StepRecord := ⟨[], .card 3 300⟩
def confirmStep : StepRecord := ⟨[79, 75], .confirm 150⟩
def entryStep : StepRecord := ⟨[65], .entry .plain 4 6 false 100 50 300⟩
def showStep : StepRecord := ⟨[72, 73], .showText 30⟩

/-! ### The operand check (one ill-formed term for each check) -/

theorem test_long_payload_refused : (Instr.status 1 (List.replicate 242 0)).wellFormed = false := by decide +kernel
theorem test_longest_payload_passes : (Instr.status 1 (List.replicate 241 0)).wellFormed = true := by decide +kernel
theorem test_known_kind_refused : (Instr.unknownCommandKind 0x14 1 []).wellFormed = false := by decide
theorem test_unknown_kind_passes :
    (Instr.unknownCommandKind 0x15 1 []).wellFormed = true ∧ (Instr.unknownCommandKind 0 1 []).wellFormed = true := by
  decide
theorem test_long_unknown_refused : (Instr.unknownCommandKind 0x15 1 (List.replicate 242 0)).wellFormed = false := by
  decide +kernel
theorem test_long_answer_refused : (Instr.pollAnswer (List.replicate 139 0)).wellFormed = false := by decide +kernel
theorem test_no_word_spells_a_command : decodeTableWord 8 0x13 = none := rfl

/-! ### Worked values of the spec -/

/-- R182: the CRC over the characters "123456789" is 0x29B1. -/
theorem test_crc : crc [49, 50, 51, 52, 53, 54, 55, 56, 57] = 0x29B1 := by decide +kernel

/-- Section 3.4: the account 5380271649035827, the trailer 2811 201 0455, and the check value 14. -/
def workedTrack : List Nat :=
  [5, 3, 8, 0, 2, 7, 1, 6, 4, 9, 0, 3, 5, 8, 2, 7] ++ 11 :: [2, 8, 1, 1, 2, 0, 1, 0, 4, 5, 5]

/-- Section 3.4: the three entries. -/
def workedTable : List PolicyEntry :=
  [⟨[5, 3], ⟨false, 12, 19, false, false, 4, 12⟩⟩, ⟨[5, 3, 8], ⟨true, 16, 16, true, true, 4, 6⟩⟩,
    ⟨[5, 3, 8, 0], ⟨true, 16, 19, true, true, 4, 4⟩⟩]

def workedCard : CardRecord :=
  ⟨[5, 3, 8, 0, 2, 7, 1, 6, 4, 9, 0, 3, 5, 8, 2, 7], 28, 11, [2, 0, 1], [0, 4, 5, 5], true, true, [5, 3, 8, 0]⟩

/-- Section 3.4, stages 1 to 11. -/
theorem test_worked_evaluation :
    evaluate workedTable Policy.powerOn (some ⟨27, 5⟩) workedTrack 14
      = .accepted workedCard ⟨[5, 3, 8, 0], ⟨true, 16, 19, true, true, 4, 4⟩⟩ := by decide +kernel

/-- Section 5.6, the worked wrap: the distances seen from 4,294,960,000 and the due tests there and at 2,704. -/
theorem test_worked_wrap :
    distance 4294960000 4294965500 = 5500 ∧ distance 4294960000 2704 = 10000 ∧ distance 4294960000 7704 = 15000
      ∧ isDue 4294960000 7704 = false ∧ isDue 2704 2704 = true
      ∧ remainingTenths 4294966000 7704 = 90 ∧ remainingTenths 3000 11704 = 88 := by decide

/-- Section 5.6: at 3,000 station 6 is granted 40 tenths, and its STEP deadline moves from 7,704 to 11,704. -/
def extending : State :=
  let s := (taking calm 0x03 5 [6, 7, 0, 40, 0]).setSession 5
    { Session.blank with
      state := .running, tag := some 7, mode := some .phases, steps := [confirmStep], index := some 1,
      phase := some .active, warned := true }
  { dueAt s (.session 5) .step 7704 with tick := 3000 }

theorem test_worked_extension :
    yes (exec (.extendStep 5 [6, 7, 0, 40, 0]) extending) (fun t =>
      t.deadlines == [⟨.session 5, .step, 11704⟩] && (t.session 5).extension == 40
        && t.outbound == [.reply 5 0x83 .done false [40, 0, 88, 0]]) = true := by decide +kernel

/-! ### The step and the commands as a whole -/

theorem witness_StepRunsTheFrontCommand :
    { calm with pending := [.frameSent] }.pending = .frameSent :: []
      ∧ { calm with slotServed := false }.nextInternal = some (.supplySample 0 0) ∧ calm.pending = []
      ∧ calm.nextInternal = none ∧ (calm.tick + 1).toNat % 10 = (1 : Station).val ∧ (calm.supply 1).state = .on
      ∧ (let s := (calm.setDue 2 (some (.next 1))).setDue 4 (some (.next 2));
        s.nextInternal = none ∧ s.due 2 = some (.next 1) ∧ s.due 4 = some (.next 2) ∧ s.due 3 = none
          ∧ isDue s.tick 1 = false ∧ isDue s.tick 2 = false)
      ∧ (let s := (flying calm 0 .poll).setDue 2 (some (.now 7));
        s.nextInternal = none ∧ s.due 2 = some (.now 7)) := by decide +kernel

theorem witness_EachCommandRepliesOnceBeforeItsNotices :
    let s := { taking calm 0x13 1 [] with sending := some ⟨.flow .go, []⟩ };
    (Instr.status 1 []).frame = some ⟨0x13, 1, []⟩ ∧ (Instr.status 1 []).wellFormed = true ∧ s.takesNow ⟨0x13, 1, []⟩
      ∧ s.outbound = [] ∧ s.sending.isSome = true ∧ yes (exec (.status 1 []) s) (fun _ => true) = true := by
  decide +kernel

theorem witness_ReportsOnlyReply :
    (taking calm 0x13 1 []).takesNow ⟨0x13, 1, []⟩ ∧ (taking calm 0x09 1 [1]).takesNow ⟨0x09, 1, [1]⟩
      ∧ portOfByte 1 = some 0 ∧ (taking calm 0x09 1 [16]).takesNow ⟨0x09, 1, [16]⟩ ∧ portOfByte 16 = some 15
      ∧ (taking calm 0x09 1 [0]).takesNow ⟨0x09, 1, [0]⟩ ∧ portOfByte 0 = none ∧ portOfByte 17 = none
      ∧ (taking calm 0x06 1 [255]).takesNow ⟨0x06, 1, [255]⟩ := by decide +kernel

/-- Section 11.3 and R177: DEVICE-INFO of a device with nothing known, and POLICY-LIST of an empty table but for the ten
bytes of its record that are ignored (log 21). -/
theorem test_reports :
    yes (exec (.deviceInfo 1 [2]) (taking calm 0x09 1 [2])) (fun t =>
      t.outbound == [.reply 1 0x89 .done false [2, 2, 4, 0, 0, 4, 0, 0, 0, 0, 0, 0, 0]]) = true
    ∧ yes (exec (.policyList 1 [0]) (taking calm 0x06 1 [0])) (fun t =>
      match t.outbound with
      | [.reply 1 0x86 .done false data] =>
        data.take 3 == [0, 0, 0] && data.length == 20 && data.drop 13 == [1, 12, 19, 1, 1, 4, 12]
      | _ => false) = true
    ∧ yes (exec (.status 1 []) (taking calm 0x13 1 [])) (fun t =>
      t.outbound.all fun i => i.payload.length == 2 + 3 + 4 + 80 + 16 + 3) = true := by decide +kernel

/-! ### Sessions -/

/-- Station, tag 7, PHASES, and a number of CARD steps of 300 tenths. -/
def openPayload (station : Byte) (n : Nat) : List Byte :=
  [station, 7, 0, 1, byteOf n] ++ (List.replicate n [1, 0, 3, 0, 0, 0, 0, 0, 0, 0, 44, 1, 0]).flatten

def opening (station : Byte) (n : Nat) : State := taking calm 0x01 9 (openPayload station n)

def openX (station : Byte) (n : Nat) : OpenRequest := ⟨station, 7, .phases, List.replicate n cardStep⟩

theorem witness_OpenSessionTakesTheSession :
    ((opening 1 1).takesNow ⟨0x01, 9, openPayload 1 1⟩ ∧ openRequestOf (openPayload 1 1) = some (openX 1 1)
      ∧ stationOfByte 1 = some 0 ∧ (openX 1 1).tag ≠ 0 ∧ (opening 1 1).counter = .opened
      ∧ ((opening 1 1).session 0).state = .idle
      ∧ (let l := (normaliseSteps (opening 1 1).settings.defaultStepTime (openX 1 1).steps).value;
        1 ≤ l.length ∧ l.length ≤ 4 ∧ stepsAllowed false l = true ∧ (opening 1 1).canServe 0 l = true))
    ∧ ((opening 8 4).takesNow ⟨0x01, 9, openPayload 8 4⟩ ∧ openRequestOf (openPayload 8 4) = some (openX 8 4)
      ∧ stationOfByte 8 = some 7 ∧ ((opening 8 4).session 7).state = .idle
      ∧ (let l := (normaliseSteps (opening 8 4).settings.defaultStepTime (openX 8 4).steps).value;
        1 ≤ l.length ∧ l.length ≤ 4 ∧ stepsAllowed false l = true ∧ (opening 8 4).canServe 7 l = true)) := by
  decide +kernel

/-- R6, R9, R120: the reader is engaged and INTAKE-ON queued. -/
theorem test_open_session :
    yes (exec (.openSession 9 (openPayload 1 1)) (opening 1 1)) (fun t =>
      (t.session 0).phase == some .starting && (t.device 0).state == .engaged
        && (t.device 0).queue.map (·.command) == [.intakeOn] && (t.device 1).state == .ready
        && t.outbound.head? == some (.reply 9 0x81 .done false [])) = true := by decide +kernel

/-- Each check of R5 has a state and operands that reach it. -/
theorem witness_OpenSessionIsRefusedInOrder :
    ((taking calm 0x01 9 []).takesNow ⟨0x01, 9, []⟩ ∧ openRequestOf [] = none)
    ∧ ((opening 0 1).takesNow ⟨0x01, 9, openPayload 0 1⟩ ∧ openRequestOf (openPayload 0 1) = some (openX 0 1)
      ∧ stationOfByte 0 = none)
    ∧ (openRequestOf (openPayload 9 1) = some (openX 9 1) ∧ stationOfByte 9 = none)
    ∧ ((opening 1 0).takesNow ⟨0x01, 9, openPayload 1 0⟩ ∧ openRequestOf (openPayload 1 0) = some (openX 1 0))
    ∧ ((opening 1 5).takesNow ⟨0x01, 9, openPayload 1 5⟩ ∧ openRequestOf (openPayload 1 5) = some (openX 1 5))
    ∧ (let s := { opening 1 1 with counter := .lull };
      s.takesNow ⟨0x01, 9, openPayload 1 1⟩ ∧ s.counter ≠ .opened)
    ∧ (let s := running (opening 1 1) 0 .active [cardStep];
      s.takesNow ⟨0x01, 9, openPayload 1 1⟩ ∧ s.counter = .opened ∧ (s.session 0).state ≠ .idle)
    ∧ (let s := inState (opening 1 1) 0 .dozing;
      s.takesNow ⟨0x01, 9, openPayload 1 1⟩ ∧ s.canServe 0 [cardStep] = false
        ∧ (normaliseSteps s.settings.defaultStepTime (openX 1 1).steps).value = [cardStep]) := by decide +kernel

/-- CANCEL-SESSION of station 3, tag 7, or tag 8. -/
def cancelling (s : State) (tag : Byte) : State := taking s 0x02 4 [3, tag, 0]

theorem witness_CancelSessionByTheTable :
    cancelRequestOf [3, 7, 0] = some (3, 7) ∧ cancelRequestOf [3, 8, 0] = some (3, 8) ∧ stationOfByte 3 = some 2
    ∧ (let s := cancelling (running calm 2 .active [cardStep]) 7;
      s.takesNow ⟨0x02, 4, [3, 7, 0]⟩ ∧ (s.session 2).state = .running ∧ (s.session 2).tag = some 7
        ∧ (s.session 2).phase ≠ some .delivering)
    ∧ (let s := cancelling (running calm 2 .delivering [cardStep, cardStep]) 7;
      s.takesNow ⟨0x02, 4, [3, 7, 0]⟩ ∧ (s.session 2).phase = some .delivering ∧ (s.session 2).lastStep = false
        ∧ (s.session 2).cardRefused = false ∧ (s.session 2).deferredCause = none)
    ∧ (let s := cancelling (running calm 2 .delivering [cardStep]) 7;
      s.takesNow ⟨0x02, 4, [3, 7, 0]⟩ ∧ (s.session 2).phase = some .delivering ∧ (s.session 2).lastStep = true)
    ∧ (let s := cancelling (ending calm 2) 7;
      s.takesNow ⟨0x02, 4, [3, 7, 0]⟩ ∧ (s.session 2).state = .ending ∧ (s.session 2).tag = some 7)
    ∧ (let s := cancelling (calm.setSession 2 { Session.blank with lastTag := some 7 }) 7;
      s.takesNow ⟨0x02, 4, [3, 7, 0]⟩ ∧ (s.session 2).state = .idle ∧ (s.session 2).lastTag = some 7)
    ∧ (let s := cancelling (ending calm 2) 8;
      s.takesNow ⟨0x02, 4, [3, 8, 0]⟩ ∧ (s.session 2).state ≠ .idle ∧ (s.session 2).tag ≠ some 8)
    ∧ (let s := cancelling calm 8;
      s.takesNow ⟨0x02, 4, [3, 8, 0]⟩ ∧ (s.session 2).state = .idle ∧ (s.session 2).lastTag ≠ some 8) := by
  decide +kernel

theorem test_cancel_active :
    yes (exec (.cancelSession 4 [3, 7, 0]) (cancelling (running calm 2 .active [cardStep]) 7)) (fun t =>
      (t.session 2).state == .idle && (t.session 2).lastCause == some .cancelledWorkstation
        && t.outbound == [.reply 4 0x82 .done false [], .sessionEnd 2 7 .cancelledWorkstation]) = true := by
  decide +kernel

/-- Section 5.6, the second worked case: at 101,500 the warning is armed late, at 102,000. -/
def lateWarning : State :=
  let s := (taking calm 0x03 5 [2, 7, 0, 30, 0]).setSession 1
    { Session.blank with
      state := .running, tag := some 7, mode := some .phases, steps := [⟨[], .entry .plain 1 4 false 0 0 40⟩],
      index := some 1, phase := some .active }
  { dueAt s (.session 1) .step 104000 with tick := 101500 }

theorem witness_ExtendStepMovesTheDeadlines :
    (let s := extending;
      s.takesNow ⟨0x03, 5, [6, 7, 0, 40, 0]⟩ ∧ extendRequestOf [6, 7, 0, 40, 0] = some (6, 7, 40)
        ∧ stationOfByte 6 = some 5 ∧ (s.session 5).state = .running ∧ (s.session 5).tag = some 7
        ∧ (s.session 5).phase = some .active ∧ (s.session 5).step? = some confirmStep
        ∧ confirmStep.kind.isShow = false ∧ s.deadlineOf (.session 5) .step = some 7704
        ∧ s.deadlineOf (.session 5) .warn = none)
    ∧ (let s := (taking extending 0x03 5 [6, 7, 0, 40, 0]).placeDeadlineAt (.session 5) .warn 3500;
      s.takesNow ⟨0x03, 5, [6, 7, 0, 40, 0]⟩ ∧ s.deadlineOf (.session 5) .warn = some 3500
        ∧ s.deadlineOf (.session 5) .step = some 7704)
    ∧ (let s := extending.modifySession 5 fun r => { r with extension := 600 };
      s.takesNow ⟨0x03, 5, [6, 7, 0, 40, 0]⟩ ∧ min 40 (600 - (s.session 5).extension) = 0)
    ∧ (let s := lateWarning;
      s.takesNow ⟨0x03, 5, [2, 7, 0, 30, 0]⟩ ∧ (s.session 1).warned = false ∧ s.settings.warnLead = 50
        ∧ s.deadlineOf (.session 1) .warn = none) := by decide +kernel

theorem test_worked_late_warning :
    yes (exec (.extendStep 5 [2, 7, 0, 30, 0]) lateWarning) (fun t =>
      t.deadlines == [⟨.session 1, .warn, 102000⟩, ⟨.session 1, .step, 107000⟩]
        && t.outbound == [.reply 5 0x83 .done false [30, 0, 55, 0]]) = true := by decide +kernel

/-! ### The card policy table -/

/-- A policy record as a command carries it (section 11.4): digits, the places beyond them ignored, and the fields of the
power-on policy. -/
def recordOf (l : List Byte) : List Byte :=
  byteOf l.length :: l ++ List.replicate (10 - l.length) 0 ++ [1, 12, 19, 1, 1, 4, 12]

/-- The record of n digits, each 1. -/
def record (n : Nat) : List Byte := recordOf (List.replicate n 1)

def ones (n : Nat) : PolicyEntry := ⟨List.replicate n 1, Policy.powerOn⟩

/-- A full table: 32 prefixes of two digits, 10 to 41, none of them a run of ones but 11. -/
def fullTable : List PolicyEntry := (List.range 32).map fun i => ⟨[1 + i / 10, i % 10], Policy.powerOn⟩

theorem witness_PolicyLoadReplacesOrInserts :
    loadRequestOf (record 1) = some ⟨1, [1], Policy.powerOn⟩
      ∧ loadRequestOf (record 10) = some ⟨10, List.replicate 10 1, Policy.powerOn⟩
      ∧ (normalisePolicy Policy.powerOn).value = Policy.powerOn ∧ Policy.powerOn.inRange
      ∧ (taking calm 0x04 1 (record 10)).takesNow ⟨0x04, 1, record 10⟩ ∧ holdsKey [1] calm.policy = false
      ∧ (let s := { taking calm 0x04 1 (record 1) with policy := [ones 1] };
        s.takesNow ⟨0x04, 1, record 1⟩ ∧ holdsKey [1] s.policy = true)
      ∧ (let s := { taking calm 0x04 1 (record 1) with policy := fullTable };
        s.takesNow ⟨0x04, 1, record 1⟩ ∧ holdsKey [1] s.policy = false ∧ 32 ≤ s.policy.length) := by decide +kernel

/-- R83: an insertion at its place, index 1 of 3. -/
theorem test_policy_load :
    yes (exec (.policyLoad 1 (record 2)) { taking calm 0x04 1 (record 2) with policy := [ones 1, ones 3] }) (fun t =>
      t.policy == [ones 1, ones 2, ones 3] && t.outbound == [.reply 1 0x84 .done false [0, 1, 3]]) = true := by
  decide +kernel

theorem witness_PolicyDropRemovesOneEntry :
    dropRequestOf [1, 10] = none ∧ (taking calm 0x05 1 [1, 10]).takesNow ⟨0x05, 1, [1, 10]⟩
      ∧ dropRequestOf [0] = some [] ∧ (taking calm 0x05 1 [0]).takesNow ⟨0x05, 1, [0]⟩
      ∧ dropRequestOf (11 :: List.replicate 11 1) = some (List.replicate 11 1)
      ∧ dropRequestOf (10 :: List.replicate 10 1) = some (List.replicate 10 1)
      ∧ (let s := taking calm 0x05 1 (10 :: List.replicate 10 1);
        s.takesNow ⟨0x05, 1, 10 :: List.replicate 10 1⟩ ∧ ∀ y ∈ s.policy, y.key ≠ List.replicate 10 1)
      ∧ (let s := { taking calm 0x05 1 [1, 1] with policy := [ones 1, ones 2] };
        s.takesNow ⟨0x05, 1, [1, 1]⟩ ∧ dropRequestOf [1, 1] = some [1] ∧ s.policy = [] ++ ones 1 :: [ones 2]
          ∧ (ones 1).key = [1] ∧ ∀ y ∈ [] ++ [ones 2], y.key ≠ [1]) := by decide +kernel

/-- R84: dropping 1 leaves 11 and 111 in place. -/
theorem test_policy_drop :
    yes (exec (.policyDrop 1 [1, 1]) { taking calm 0x05 1 [1, 1] with policy := [ones 1, ones 2, ones 3] }) (fun t =>
      t.policy == [ones 2, ones 3] && t.outbound == [.reply 1 0x85 .done false [2]]) = true := by decide +kernel

/-- A DEFAULT-POLICY whose account range ends at a number. -/
def defaultPayload (least most : Byte) : List Byte := List.replicate 11 0 ++ [1, least, most, 1, 1, 4, 12]

theorem witness_DefaultPolicyAndDateAreStored :
    (let l := defaultPayload 12 19;
      (taking calm 0x07 1 l).takesNow ⟨0x07, 1, l⟩ ∧ defaultRequestOf l = some Policy.powerOn
        ∧ (normalisePolicy Policy.powerOn).value.accountMin ≤ (normalisePolicy Policy.powerOn).value.accountMax)
      ∧ (let l := defaultPayload 16 15;
        (taking calm 0x07 1 l).takesNow ⟨0x07, 1, l⟩
          ∧ defaultRequestOf l = some { Policy.powerOn with accountMin := 16, accountMax := 15 })
      ∧ (taking calm 0x08 1 [99, 12]).takesNow ⟨0x08, 1, [99, 12]⟩
      ∧ (taking calm 0x08 1 [100, 12]).takesNow ⟨0x08, 1, [100, 12]⟩
      ∧ (taking calm 0x08 1 [0, 13]).takesNow ⟨0x08, 1, [0, 13]⟩ := by decide +kernel

theorem test_set_date :
    yes (exec (.setDate 1 [27, 5]) (taking calm 0x08 1 [27, 5])) (fun t => t.businessMonth == some ⟨27, 5⟩) = true
    ∧ yes (exec (.setDate 1 [27, 0]) (taking calm 0x08 1 [27, 0])) (fun t =>
      t.businessMonth == none && t.outbound == [.reply 1 0x88 .badRequest false []]) = true := by decide +kernel

theorem test_default_policy :
    yes (exec (.defaultPolicy 1 (defaultPayload 5 15)) (taking calm 0x07 1 (defaultPayload 5 15))) (fun t =>
      t.defaultPolicy == { Policy.powerOn with accountMin := 12, accountMax := 15 }
        && t.outbound == [.reply 1 0x87 .done true []]) = true := by decide +kernel

theorem witness_LookupYieldsTheLongestPrefix :
    workedTable.Pairwise (fun a b => keyBefore a.key b.key = true)
      ∧ (∀ e ∈ workedTable, ¬e.key <+: [4, 4]) ∧ (∃ e ∈ workedTable, e.key <+: [5, 3, 8, 0, 2]) := by decide +kernel

theorem test_policy_record : loadRequestOf (recordOf [5, 3]) = some ⟨2, [5, 3], Policy.powerOn⟩ := by
  decide +kernel

/-! ### Devices and supplies by command -/

theorem witness_DeviceReleaseReturnsAHeldDevice :
    portOfByte 0 = none ∧ (taking calm 0x0A 1 [0]).takesNow ⟨0x0A, 1, [0]⟩ ∧ portOfByte 17 = none
      ∧ (let s := inState (taking calm 0x0A 1 [16]) 15 .held;
        s.takesNow ⟨0x0A, 1, [16]⟩ ∧ portOfByte 16 = some 15 ∧ (s.device 15).state = .held)
      ∧ (let s := inState (taking calm 0x0A 1 [1]) 0 .restarting;
        s.takesNow ⟨0x0A, 1, [1]⟩ ∧ portOfByte 1 = some 0 ∧ (s.device 0).state ≠ .held) := by decide +kernel

theorem test_device_release :
    yes (exec (.deviceRelease 1 [1]) (inState (taking calm 0x0A 1 [1]) 0 .held)) (fun t =>
      t.outbound == [.reply 1 0x8A .done false [], .deviceChange 0 .held .absent .released 1]) = true := by
  decide +kernel

/-- DIRECT-EXCHANGE with a device of address 2 in a state, with a payload of n bytes. -/
def directing (x : PortState) (n : Nat) : State :=
  inState (taking calm 0x0B 1 (2 :: byteOf n :: List.replicate n 9)) 1 x

theorem witness_DirectExchangeWaitsForTheBus :
    portOfByte 0 = none ∧ portOfByte 2 = some 1
      ∧ (directing .ready 41).takesNow ⟨0x0B, 1, 2 :: 41 :: List.replicate 41 9⟩
      ∧ directRequestOf (2 :: 41 :: List.replicate 41 9) = some (2, List.replicate 41 9)
      ∧ directRequestOf (2 :: 40 :: List.replicate 40 9) = some (2, List.replicate 40 9)
      ∧ (∀ x ∈ [PortState.held, .unpowered, .absent, .engaged, .joining, .ready, .dozing, .restarting],
        (directing x 40).takesNow ⟨0x0B, 1, 2 :: 40 :: List.replicate 40 9⟩
          ∧ ((directing x 40).device 1).state = x) := by decide +kernel

theorem test_direct_exchange :
    yes (exec (.directExchange 1 [2, 0]) (directing .ready 0)) (fun t =>
      t.pendingDirect == some ⟨1, [], 1⟩ && t.outbound == []) = true
    ∧ yes (exec (.directExchange 1 [2, 0]) (directing .engaged 0)) (fun t =>
      t.pendingDirect == none && t.outbound == [.reply 1 0x8B .busy false []]) = true := by decide +kernel

theorem witness_SupplyOffSwitchesOff :
    stationOfByte 1 = some 0 ∧ stationOfByte 8 = some 7
      ∧ (let s := running (taking calm 0x0C 1 [1]) 0 .active [cardStep];
        s.takesNow ⟨0x0C, 1, [1]⟩ ∧ (s.session 0).state ≠ .idle)
      ∧ (∀ x ∈ [SupplyState.locked, .off, .trial, .on, .cooling],
        let s := supplyIn (taking calm 0x0C 1 [8]) 7 x (if x = .locked then 3 else 2);
        s.takesNow ⟨0x0C, 1, [8]⟩ ∧ (s.session 7).state = .idle ∧ (s.supply 7).state = x) := by decide +kernel

/-- R156 case 5, R119: the reply, the SUPPLY-CHANGE and the two DEVICE-CHANGEs, reader first. -/
theorem test_supply_off :
    yes (exec (.supplyOff 1 [1]) (taking calm 0x0C 1 [1])) (fun t =>
      t.outbound == [.reply 1 0x8C .done false [1, 0], .supplyChange 0 .on .off .switchedOff 0 none 1,
        .deviceChange 0 .ready .unpowered .powerLost 1, .deviceChange 1 .ready .unpowered .powerLost 1]) = true := by
  decide +kernel

theorem witness_SupplyRestoreStartsAgain :
    ∀ x ∈ [SupplyState.locked, .off, .trial, .on, .cooling], ∀ c ∈ [CounterState.opened, .closed],
      let s := { supplyIn (taking calm 0x0D 1 [1]) 0 x (if x = .locked then 3 else 2) with counter := c };
      s.takesNow ⟨0x0D, 1, [1]⟩ ∧ stationOfByte 1 = some 0 ∧ (s.supply 0).state = x ∧ s.counter = c := by decide +kernel

theorem test_supply_restore :
    yes (exec (.supplyRestore 1 [1]) (supplyIn (taking calm 0x0D 1 [1]) 0 .locked 3)) (fun t =>
      (t.supply 0).state == .trial && (t.supply 0).tripCount == 0
        && t.deadlineOf (.supply 0) .supply == some 200
        && t.outbound == [.reply 1 0x8D .done false [2, 0], .supplyChange 0 .locked .trial .restored 0 none 1])
      = true := by decide +kernel

/-! ### The counter by command -/

/-- A wake mask of 32 equal flags. -/
def maskBytes (b : Byte) : List Byte := List.replicate 32 b

theorem witness_DozeCounterEntersLull :
    wakeMaskOf (maskBytes 1) = some (Vector.replicate 8 ⟨true, true, true, true⟩)
      ∧ (∀ c ∈ [CounterState.starting, .waking, .lull, .closed, .orphaned, .opened],
        let s := { taking calm 0x0E 1 (maskBytes 1) with counter := c };
        s.takesNow ⟨0x0E, 1, maskBytes 1⟩ ∧ s.counter = c ∧ ∀ st, (s.session st).state = .idle)
      ∧ (let s := running (taking calm 0x0E 1 (maskBytes 1)) 7 .active [cardStep];
        s.takesNow ⟨0x0E, 1, maskBytes 1⟩ ∧ s.counter = .opened ∧ ∃ st, (s.session st).state ≠ .idle) := by
  decide +kernel

theorem test_doze_counter :
    yes (exec (.dozeCounter 1 (maskBytes 0)) (taking calm 0x0E 1 (maskBytes 0))) (fun t =>
      t.counter == .lull && t.outbound == [.reply 1 0x8E .done false [], .counterChange .opened .lull .dozed none 1]
        && ports.all fun p => (t.device p).queue.map (·.command) == [.doze]) = true := by decide +kernel

theorem witness_OpenCounterWakesOrReopens :
    (∀ c ∈ [CounterState.starting, .opened, .waking, .lull, .closed, .orphaned],
      let s := { taking calm 0x0F 1 [] with counter := c };
      s.takesNow ⟨0x0F, 1, []⟩ ∧ s.counter = c ∧ s.settleTicks = 50) := by decide +kernel

/-- R171: a settle time of 0 passes the counter through WAKING in the same event. -/
theorem test_open_counter :
    yes (exec (.openCounter 1 []) { taking calm 0x0F 1 [] with counter := .lull }) (fun t =>
      t.counter == .waking && t.deadlineOf .counter .settle == some 50
        && t.deadlineOf .counter .supervision == some 10000) = true
    ∧ yes (exec (.openCounter 1 [])
        { taking calm 0x0F 1 [] with counter := .lull, settings := { Settings.powerOn with settleSelect := 0 } })
      (fun t => t.counter == .opened && t.deadlines == [⟨.counter, .supervision, 10000⟩]) = true := by decide +kernel

theorem witness_CloseCounterSwitchesTheSuppliesOff :
    (∀ c ∈ [CounterState.starting, .closed, .opened, .lull, .waking, .orphaned],
      let s := { taking calm 0x10 1 [] with counter := c };
      s.takesNow ⟨0x10, 1, []⟩ ∧ s.counter = c ∧ ∀ st, (s.session st).state = .idle)
    ∧ (let s := ending (taking calm 0x10 1 []) 3;
      s.takesNow ⟨0x10, 1, []⟩ ∧ s.counter ≠ .starting ∧ s.counter ≠ .closed ∧ ∃ st, (s.session st).state ≠ .idle) := by
  decide +kernel

theorem test_close_counter :
    yes (exec (.closeCounter 1 []) (supplyIn (taking calm 0x10 1 []) 2 .locked 3)) (fun t =>
      t.counter == .closed && (t.supply 0).state == .off && (t.supply 2).state == .locked
        && (t.device 0).state == .unpowered) = true := by decide +kernel

theorem witness_SettingsAreStoredTogether :
    (taking calm 0x11 1 [1, 8, 0, 0]).takesNow ⟨0x11, 1, [1, 8, 0, 0]⟩
      ∧ settingsRequestOf [1, 8, 0, 0] = some [(8, 0)] ∧ settingNameOf 8 = none ∧ settingNameOf 0 = none
      ∧ (taking calm 0x11 1 [2, 1, 5, 0, 1, 6, 0]).takesNow ⟨0x11, 1, [2, 1, 5, 0, 1, 6, 0]⟩
      ∧ settingsRequestOf [2, 1, 5, 0, 1, 6, 0] = some [(1, 5), (1, 6)]
      ∧ (taking calm 0x11 1 [2, 1, 5, 0, 7, 6, 0]).takesNow ⟨0x11, 1, [2, 1, 5, 0, 7, 6, 0]⟩
      ∧ settingsRequestOf [2, 1, 5, 0, 7, 6, 0] = some [(1, 5), (7, 6)]
      ∧ settingNameOf 1 = some .restartLimit ∧ settingNameOf 7 = some .warnLead
      ∧ (taking calm 0x11 1 [0]).takesNow ⟨0x11, 1, [0]⟩ ∧ settingsRequestOf [0] = some [] := by decide +kernel

/-- R174, R150: the high threshold 1,501 becomes 1,500 and the low threshold 21 becomes 20; restart limit 0 becomes 1. -/
theorem test_settings :
    (let l := [3, 4, 221, 5, 5, 21, 0, 1, 0, 0];
      yes (exec (.settings 1 l) ((taking calm 0x11 1 l).modifyDevice 0 fun d => { d with restartCount := 3 }))
        (fun t => t.settings == { Settings.powerOn with restartLimit := 1, highThreshold := 1500, lowThreshold := 20 }
          && (t.device 0).restartCount == 1
          && t.outbound == [.reply 1 0x91 .done true [1, 0, 10, 0, 3, 0, 220, 5, 20, 0, 44, 1, 50, 0]])) = true := by
  decide +kernel

theorem witness_IdleTextIsStored :
    (∀ b ∈ [(0 : Byte), 1, 8, 9, 0xFF], (taking calm 0x12 1 [b, 1, 65]).takesNow ⟨0x12, 1, [b, 1, 65]⟩
        ∧ idleTextRequestOf [b, 1, 65] = some (b, [65]))
      ∧ textTargetOf 9 = none ∧ textTargetOf 0 = some .allStations ∧ textTargetOf 1 = some (.station 0)
      ∧ textTargetOf 8 = some (.station 7) ∧ textTargetOf 0xFF = some .closed ∧ calm.counter.showsIdle = true
      ∧ (calm.device (keypadOf 7)).state = .ready
      ∧ (∀ b ∈ [(0 : Byte), 8, 0xFF],
        { taking calm 0x12 1 [b, 1, 65] with counter := .orphaned }.takesNow ⟨0x12, 1, [b, 1, 65]⟩)
      ∧ CounterState.orphaned.showsIdle = false := by decide +kernel

theorem test_idle_text :
    yes (exec (.idleText 1 [1, 2, 65, 7]) (taking calm 0x12 1 [1, 2, 65, 7])) (fun t =>
      t.idleText 0 == [65, 63] && (t.device 1).queue.map (·.command) == [.showText [65, 63]]
        && t.outbound == [.reply 1 0x92 .done true []]) = true
    ∧ yes (exec (.idleText 1 [0xFF, 1, 65]) { taking calm 0x12 1 [0xFF, 1, 65] with counter := .orphaned }) (fun t =>
      t.closedText == [65] && (t.device 15).queue.map (·.command) == [.showText [65]]) = true := by decide +kernel

/-- An IDLE-TEXT payload for station 1 with a text of n characters. -/
def widest (n : Nat) : List Byte := 1 :: byteOf n :: List.replicate n 65

theorem witness_ResetIsRecordedAndUnknownKindsAreRefused :
    (∀ b ∈ [(1 : Byte), 2, 0, 3], (taking calm 0x14 1 [b]).takesNow ⟨0x14, 1, [b]⟩)
      ∧ resetKindOf [1] = some .soft ∧ resetKindOf [2] = some .full
      ∧ (∀ k ∈ [(0 : Byte), 0x15, 0xFF], (taking calm k 1 []).takesNow ⟨k, 1, []⟩ ∧ namesCommand k = false)
      ∧ (Instr.idleText 1 (widest 239)).frame = some ⟨0x12, 1, widest 239⟩
      ∧ (Instr.idleText 1 (widest 239)).wellFormed = true ∧ (widest 239).length = 241
      ∧ (taking calm 0x12 1 (widest 239)).takesNow ⟨0x12, 1, widest 239⟩
      ∧ (Instr.unknownCommandKind 0xFF 1 (widest 239)).wellFormed = true := by decide +kernel

/-- R183: an IDLE-TEXT whose text makes a payload of 241 bytes is refused; one of 240 bytes is stored. -/
theorem test_payload_of_241 :
    yes (exec (.idleText 1 (widest 239)) (taking calm 0x12 1 (widest 239))) (fun t =>
      t == { calm with outbound := [.reply 1 0x92 .badRequest false []] }) = true
    ∧ yes (exec (.idleText 1 (widest 238)) (taking calm 0x12 1 (widest 238))) (fun t =>
      t.outbound == [.reply 1 0x92 .done true []]) = true := by decide +kernel

theorem test_reset_hub :
    yes (exec (.resetHub 1 [2]) (taking calm 0x14 1 [2])) (fun t =>
      t.resetPending == some .full && t.outbound == [.reply 1 0x94 .done false []]) = true := by decide +kernel

/-- Section 11.2: the reply to kind 0x15 has the kind 0x95, and the reply to 0xA1 too keeps its low seven bits. -/
theorem test_unknown_kind :
    yes (exec (.unknownCommandKind 0x15 1 []) (taking calm 0x15 1 [])) (fun t =>
      t.outbound == [.reply 1 0x95 .badRequest false []]) = true
    ∧ yes (exec (.unknownCommandKind 0xA1 1 []) (taking calm 0xA1 1 [])) (fun t =>
      t.outbound == [.reply 1 0xA1 .badRequest false []]) = true := by decide +kernel

/-! ### The link -/

theorem witness_LinkFrameRoundTrip :
    calm.receiver = .hunting ∧ (List.replicate 223 (0 : Byte)).length ≤ 241 ∧ calm.rate.fits (223 + 7) 0 = true
      ∧ calm.rate.fits (224 + 7) 0 = false ∧ Rate.baud230400.fits (241 + 7) 0 = true := by decide +kernel

/-- R183, R184: a STATUS frame between noise, and the same frame with its last byte wrong. -/
theorem test_receive_frame :
    yes (exec (.receiveFrame (⟨1, true⟩ :: onLine (linkFrame 0x13 7 []))) calm) (fun t =>
      t.intake == [⟨0x13, 7, []⟩] && t.receiver == .hunting
        && t.deadlineOf .counter .supervision == some 10000) = true
    ∧ yes (exec (.receiveFrame (onLine ((linkFrame 0x13 7 []).dropLast ++ [0]))) calm) (fun t => t == calm) = true := by
  decide +kernel

theorem witness_GoodFrameIsCountedAndAppended :
    (∀ n ∈ [0, 4, 5, 6, 7, 8], { calm with intake := List.replicate n ⟨0, 0, []⟩ }.intake.length = n)
      ∧ (∀ c ∈ [CounterState.starting, .opened, .waking, .lull, .closed, .orphaned],
        { calm with counter := c }.counter = c) := by decide +kernel

theorem witness_LateFrameIsDiscarded :
    (let s := { calm with receiver := .assembling [1] 0 };
      s.receiver = .assembling [1] 0 ∧ s.rate.limitTicks 2 = 20 ∧ (s.reach (ahead 0 20)).isSome = true
        ∧ isDue s.tick (ahead 0 20) = false)
    ∧ (let s := { calm with receiver := .assembling [1] 0, tick := 20 };
      s.reach (ahead 0 20) = some s
        ∧ 20 * s.rate.baud < (s.tick - 0).toNat * s.rate.baud + ([(1 : Byte)].length + 2) * 10000)
    ∧ Rate.baud115200.limitTicks 230 = 1 ∧ Rate.baud115200.limitTicks 231 = 0 := by decide +kernel

/-- R183: at 115,200 baud a fourth byte 19 ms after the start byte is in time, and one 20 ms after it begins a new frame
when it is 0xA5. -/
theorem test_late_byte :
    yes (exec (.receiveFrame (onLine [0xA5])) { calm with receiver := .assembling [2, 0] 0, tick := 19 }) (fun t =>
      t.receiver == .assembling [2, 0, 0xA5] 0) = true
    ∧ yes (exec (.receiveFrame (onLine [0xA5])) { calm with receiver := .assembling [2, 0] 0, tick := 20 }) (fun t =>
      t.receiver == .assembling [] 20) = true := by decide +kernel

theorem test_frame_timeout :
    yes (exec .frameTimeout { calm with receiver := .assembling [1] 4294967290 , tick := 4294967295 }) (fun t =>
      t.receiver == .hunting && t.tick == 14) = true := by decide +kernel

theorem witness_CtsGatesTheNextFrame :
    (let s := { calm with pendingFlow := some .go, outbound := [.sessionEnd 0 7 .completed] };
      s.sending = none ∧ s.pendingFlow = some .go)
    ∧ (let s := { calm with outbound := [.sessionEnd 0 7 .completed] };
      s.sending = none ∧ s.pendingFlow = none ∧ s.outbound = .sessionEnd 0 7 .completed :: [])
    ∧ calm.sending = none ∧ calm.pendingFlow = none ∧ calm.outbound = []
    ∧ { calm with sending := some ⟨.flow .go, []⟩ }.sending ≠ none := by decide +kernel

theorem test_cts_change :
    yes (exec (.ctsChange true) { calm with pendingFlow := some .hold, outbound := [.sessionEnd 0 7 .completed] })
      (fun t => t.sending.map (·.what) == some (.flow .hold) && t.outbound.length == 1) = true := by decide +kernel

/-- An item in transmission. -/
def sendingItem (s : State) (i : Item) : State := { s with sending := some ⟨.item i, []⟩ }

def okResult : StepResult := ⟨0, 7, 1, .confirmOk⟩

theorem witness_SentFrameFreesTheTransmitter :
    calm.sending = none
      ∧ { calm with sending := some ⟨.flow .go, []⟩ }.sending = some ⟨.flow .go, []⟩
      ∧ (sendingItem calm (.stationCall 0 1)).sending = some ⟨.item (.stationCall 0 1), []⟩
      ∧ (Item.stationCall 0 1).key ≠ none
      ∧ (sendingItem calm (.reply 1 0x94 .done false [])).resetPending = none
      ∧ (sendingItem calm (.reply 1 0x94 .done false [])).sending = some ⟨.item (.reply 1 0x94 .done false []), []⟩
      ∧ (let s := sendingItem (calm.modifySession 0 fun r => { r with pendingResult := some okResult })
          (.sessionEnd 0 6 .completed);
        s.sending = some ⟨.item (.sessionEnd 0 6 .completed), []⟩ ∧ s.outbound.any (Item.isResultOf 0) = false
          ∧ (s.session 0).pendingResult = some okResult) := by decide +kernel

/-- A session in DELIVERING whose result is on the line. -/
def delivering (steps : List StepRecord) (f : Session → Session) : State :=
  sendingItem ((running calm 0 .delivering steps).modifySession 0 f) (.stepResult okResult)

theorem witness_SentResultEndsDelivering :
    (∀ s ∈ [delivering [confirmStep] id, delivering [confirmStep] (fun r => { r with cardRefused := true }),
        delivering [confirmStep] (fun r => { r with deferredCause := some .deviceLost }),
        delivering [confirmStep, cardStep] id],
      s.sending = some ⟨.item (.stepResult okResult), []⟩ ∧ (s.session 0).state = .running
        ∧ (s.session 0).phase = some .delivering ∧ (s.session 0).pendingResult = none)
    ∧ ((delivering [confirmStep] id).session 0).lastStep = true
    ∧ (let x := (delivering [confirmStep, cardStep] id).session 0;
      x.index = some 1 ∧ x.steps[1]? = some cardStep ∧ x.policyConflict cardStep.kind = false)
    ∧ (let k := StepKind.entry .concealed 4 4 true 0 0 300;
      let x := (delivering [confirmStep, ⟨[], k⟩] fun r =>
        { r with policyCopy := some ⟨[], { Policy.powerOn with concealedMin := 5 }⟩ }).session 0;
      x.index = some 1 ∧ x.steps[1]? = some ⟨[], k⟩ ∧ x.policyConflict k = true) := by decide +kernel

theorem test_frame_sent :
    yes (exec .frameSent (delivering [confirmStep] id)) (fun t =>
      t.outbound == [.sessionEnd 0 7 .completed] && (t.session 0).state == .idle && t.sending == none) = true := by
  decide +kernel

/-- The DONE reply of RESET-HUB on the line, with a reset pending. -/
def resetting (k : ResetKind) (x : SupplyState) : State :=
  sendingItem { calm with
    resetPending := some k, policy := [ones 1],
    supplies := Vector.replicate 8 { Supply.blank with state := x, heldOff := x == .off } } (.reply 1 0x94 .done false [])

theorem witness_ResetTakesEffectWhenItsReplyHasLeft :
    (∀ k ∈ [ResetKind.soft, .full], ∀ x ∈ [SupplyState.off, .on, .locked],
      (resetting k x).sending = some ⟨.item (.reply 1 0x94 .done false []), []⟩
        ∧ (resetting k x).resetPending = some k ∧ ((resetting k x).supply 0).state = x) := by decide +kernel

/-- R164, R165, R178: with every supply off by command the counter opens at once. -/
theorem test_reset_effect :
    yes (exec .frameSent (resetting .soft .on)) (fun t =>
      t.counter == .starting && t.policy == [ones 1] && (t.device 3).state == .absent) = true
    ∧ yes (exec .frameSent (resetting .full .off)) (fun t => t.counter == .opened && t.policy == []) = true := by
  decide +kernel

theorem test_power_on :
    yes (exec (.powerOnReset ⟨true, false⟩) { calm with tick := 99 }) (fun t =>
      t.rate == .baud460800 && t.tick == 0 && t.counter == .starting && t.outbound.length == 9) = true
    ∧ yes (exec (.resetInput ⟨true, true⟩) { calm with tick := 99 }) (fun t =>
      t.rate == .baud921600 && t.tick == 0) = true := by decide +kernel

/-! ### Supplies -/

/-- A supply ON with an over run, at a tick whose slot is the station's. -/
def sampling (run trips : Nat) : State :=
  { calm.modifySupply 7 fun r => { r with overRun := run, tripCount := trips } with tick := 17, slotServed := false }

/-- Station 1 ON with a level at its sense input and draw present, at a tick with an entry ahead. -/
def levelled (level : SenseCode) (d : Tick) : State :=
  { dueAt (calm.modifySupply 0 fun r => { r with draw := true, overRun := 1 }) .counter .settle d with
    sense := calm.sense.set 0 level, tick := 5 }

theorem witness_SampleIsJudged :
    (∀ d ∈ [Due.now 3, .next 30, .next 31],
      let s := (levelled 31 30).setDue 2 (some d);
      s.reach 30 ≠ none ∧ s.due 2 = some d ∧ isDue s.tick 30 = false ∧ isDue s.tick 31 = false)
    ∧ (isDue 5 30 = false ∧ (levelled 31 30).reach 30 ≠ none ∧ (levelled 31 29).reach 30 = none
      ∧ (levelled 5 30).reach 30 = none ∧ (levelled 401 30).reach 30 = none ∧ (levelled 401 10).reach 10 ≠ none
      ∧ (levelled 401 30).slotServed = true ∧ distance 5 30 = 25 ∧ (ahead 5 5).toNat % 10 = (0 : Station).val
      ∧ ((levelled 31 30).supply 0).state = .on)
    ∧ (∀ n ∈ [0, 1, 2], ((sampling n 0).supply 7).state = .on ∧ (sampling n 0).reachSlot 7 400 ≠ none
        ∧ ((sampling n 0).supply 7).overRun = n)
      ∧ 2 * (400 : SenseCode).toNat ≤ (sampling 0 0).settings.highThreshold
      ∧ (sampling 0 0).settings.highThreshold < 2 * (401 : SenseCode).toNat
      ∧ ((sampling 2 2).supply 7).tripCount + 1 = 3
      ∧ (let s := running (inState (sampling 2 0) 14 .engaged) 7 .active [cardStep];
        (s.session 7).state = .running ∧ (s.device (readerOf 7)).state = .engaged ∧ s.reachSlot 7 401 ≠ none)
      ∧ (supplyIn (sampling 0 0) 7 .trial 0).reachSlot 7 0 ≠ none := by decide +kernel

/-- R149: an expiry at 30 has the samples of 10 and 20 behind it, and that of 30 still to be taken. -/
theorem test_samples_in_passing :
    yes (exec .settled { levelled 31 30 with counter := .waking }) (fun t =>
      t.tick == 30 && !t.slotServed && (t.supply 0).lastSample == some 31 && (t.supply 0).overRun == 0
        && t.nextInternal == some (.supplySample 0 31)) = true := by decide +kernel

/-- Section 8.9: the supply of station 7 enters TRIAL at its own slot, 12,005,026, and is first sampled at 12,005,036. -/
theorem test_trial_at_own_slot :
    yes (exec (.cooled 6) { dueAt (supplyIn calm 6 .cooling 1) (.supply 6) .supply 12005026 with tick := 12005025 })
      (fun t => t.tick == 12005026 && slotAhead t.tick t.slotServed 6 == some 10) = true := by decide +kernel

/-- R151, R152: 800 mA is no over sample, 802 mA is; the third trip locks the supply. -/
theorem test_supply_sample :
    yes (exec (.supplySample 7 400) (sampling 2 0)) (fun t => (t.supply 7).overRun == 0 && (t.supply 7).draw) = true
    ∧ yes (exec (.supplySample 7 401) (sampling 2 2)) (fun t =>
      (t.supply 7).state == .locked && t.outbound.head? == some (.supplyChange 7 .on .locked .tripped 3 (some 802) 1)
        && (t.device 14).state == .unpowered) = true := by decide +kernel

/-- A supply in a state whose deadline stands at the head. -/
def supplyDue (x : SupplyState) (trips : Nat) : State := dueAt (supplyIn calm 0 x trips) (.supply 0) .supply 50

theorem witness_CooledSupplyEntersTrial :
    ((supplyDue .cooling 2).supply 0).state = .cooling
      ∧ (supplyDue .cooling 2).deadlines = ⟨.supply 0, .supply, 50⟩ :: []
      ∧ ((supplyDue .cooling 2).reach 50).isSome = true
      ∧ (∀ x ∈ (supplyDue .cooling 2).outbound, x.key ≠ some (.supplyChange 0))
      ∧ ((supplyDue .trial 2).supply 0).state = .trial
      ∧ yes (exec (.trialPassed 0) (supplyDue .trial 2)) (fun _ => true) = true := by decide +kernel

theorem test_cooled :
    yes (exec (.cooled 0) (supplyDue .cooling 2)) (fun t =>
      t.tick == 50 && t.deadlines == [⟨.supply 0, .supply, 250⟩]
        && t.outbound == [.supplyChange 0 .cooling .trial .cooled 2 none 1]) = true := by decide +kernel

theorem witness_TrialAndCleanPeriodRunOut :
    (let s := inState (supplyDue .trial 1) 0 .unpowered;
      (s.supply 0).state = .trial ∧ s.deadlines = ⟨.supply 0, .supply, 50⟩ :: [] ∧ stationOf 0 = 0
        ∧ (s.device 0).state = .unpowered ∧ (s.reach 50).isSome = true)
    ∧ (let s := supplyDue .on 1;
      (s.supply 0).state = .on ∧ s.deadlines = ⟨.supply 0, .supply, 50⟩ :: [] ∧ (s.supply 0).tripCount ≠ 0
        ∧ (s.reach 50).isSome = true ∧ ∀ x ∈ s.outbound, x.key ≠ some (.supplyChange 0)) := by decide +kernel

theorem test_trial_passed :
    yes (exec (.trialPassed 0) (inState (supplyDue .trial 1) 0 .unpowered)) (fun t =>
      (t.supply 0).state == .on && (t.device 0).state == .absent && t.due 0 == some (.now 0)
        && t.outbound == [.supplyChange 0 .trial .on .trialPassed 1 (some 0) 1,
          .deviceChange 0 .unpowered .absent .powerRestored 1]) = true := by decide +kernel

theorem test_supply_clean :
    yes (exec (.supplyCleanPeriod 0) (supplyDue .on 2)) (fun t =>
      t.outbound == [.supplyChange 0 .on .on .clean 0 (some 0) 1] && t.deadlines == []) = true
    ∧ yes (exec (.supplyCleanPeriod 0) (supplyDue .on 0)) (fun t => t.outbound == []) = true := by decide +kernel

/-! ### Deadlines -/

theorem witness_DueTestAcrossTheWrap : (600000 : Nat) ≤ 600000 ∧ (599999 : Nat) < 600000 ∧ 2147483647 < 2147483648 := by
  decide

theorem witness_StepDeadlineFallsDue :
    ∀ x ∈ [confirmStep, showStep], ∀ p ∈ [Phase.waitingClear, .active],
      let s := dueAt (running calm 0 p [x]) (.session 0) .step 50;
      (s.session 0).state = .running ∧ (s.session 0).phase = some p ∧ (s.session 0).step? = some x
        ∧ s.deadlines = ⟨.session 0, .step, 50⟩ :: [] ∧ (s.reach 50).isSome = true
        ∧ s.outstanding 0 = false ∧ (s.session 0).tag = some 7
        ∧ (s.session 0).index = some 1 := by decide +kernel

theorem test_step_deadline :
    yes (exec (.stepDeadline 0) (dueAt (running calm 0 .active [confirmStep]) (.session 0) .step 50)) (fun t =>
      t.outbound == [.sessionEnd 0 7 .timedOut] && t.tick == 50) = true
    ∧ yes (exec (.stepDeadline 0) (dueAt (running calm 0 .active [showStep]) (.session 0) .step 50)) (fun t =>
      t.outbound == [.progress 0 7 1 .delivering 0 false 0, .stepResult ⟨0, 7, 1, .showOk⟩]) = true := by
  decide +kernel

theorem witness_WarnAndKeyDeadlinesFallDue :
    (let s := dueAt (inState (running calm 0 .active [confirmStep]) 1 .engaged) (.session 0) .warn 50;
      (s.session 0).state = .running ∧ (s.session 0).phase = some .active
        ∧ s.deadlines = ⟨.session 0, .warn, 50⟩ :: [] ∧ (s.reach 50).isSome = true
        ∧ (s.device (keypadOf 0)).state = .engaged
        ∧ (s.device (keypadOf 0)).queue = [])
    ∧ (let s := dueAt (running calm 0 .waitingClear [entryStep]) (.session 0) .key 50;
      (s.session 0).state = .running ∧ (s.session 0).phase = some .waitingClear
        ∧ s.deadlines = ⟨.session 0, .key, 50⟩ :: [] ∧ (s.reach 50).isSome = true) := by decide +kernel

theorem test_warn_deadline :
    yes (exec (.warnDeadline 0) (dueAt (inState (running calm 0 .active [confirmStep]) 1 .engaged) (.session 0) .warn 50))
      (fun t => (t.device 1).queue.map (·.command) == [.beep .warn]
        && t.outbound == [.progress 0 7 1 .active 0 true 0]) = true := by decide +kernel

theorem test_key_deadline :
    yes (exec (.keyDeadline 0) (dueAt (running calm 0 .active [entryStep]) (.session 0) .key 50)) (fun t =>
      (t.session 0).lastCause == some .timedOut && t.outbound == [.sessionEnd 0 7 .timedOut]) = true := by
  decide +kernel

/-- A device in a state with a restart count, its deadline at the head. -/
def deviceDue (x : PortState) (n : Nat) : State :=
  dueAt (calm.modifyDevice 3 fun d => { d with state := x, restartCount := n }) (.device 3) .device 50

theorem witness_DeviceDeadlineFallsDue :
    (∀ n ∈ [0, 3, 4], ((deviceDue .restarting n).device 3).state = .restarting
        ∧ ((deviceDue .restarting n).device 3).restartCount = n
        ∧ (deviceDue .restarting n).deadlines = ⟨.device 3, .device, 50⟩ :: []
        ∧ ((deviceDue .restarting n).reach 50).isSome = true)
      ∧ calm.settings.restartLimit = 4
      ∧ (∀ x ∈ [PortState.ready, .engaged, .dozing], ((deviceDue x 4).device 3).state = x
        ∧ ((deviceDue x 4).reach 50).isSome = true) := by decide +kernel

theorem test_restart_window :
    yes (exec (.restartWindow 3) (deviceDue .restarting 3)) (fun t =>
      (t.device 3).restartCount == 4 && t.owes 3 == some .resetDevice && t.outbound == []
        && t.deadlines == [⟨.device 3, .device, 3050⟩]) = true
    ∧ yes (exec (.restartWindow 3) (deviceDue .restarting 4)) (fun t =>
      t.outbound == [.deviceChange 3 .restarting .held .restartLimit 1]) = true := by decide +kernel

theorem test_device_clean :
    yes (exec (.deviceCleanPeriod 3) (deviceDue .engaged 4)) (fun t =>
      (t.device 3).restartCount == 0 && t.outbound == []) = true := by decide +kernel

theorem witness_SupervisionExpires :
    ∀ c ∈ [CounterState.starting, .opened, .waking],
      let s := dueAt { running calm 0 .active [confirmStep] with counter := c } .counter .supervision 50;
      s.counter = c ∧ s.deadlines = ⟨.counter, .supervision, 50⟩ :: [] ∧ (s.reach 50).isSome = true
        ∧ (s.session 0).state = .running
        ∧ (s.session 1).state ≠ .running
        ∧ ((owing s .idle c).textOwed[(0 : Station).val] = some .idle
          ∧ ((inState s 1 .engaged).device (keypadOf 0)).state = .engaged
          ∧ (s.device (keypadOf 0)).state ≠ .engaged) := by decide +kernel

theorem test_supervision :
    yes (exec .supervisionExpired (dueAt (running calm 0 .active [confirmStep]) .counter .supervision 50)) (fun t =>
      t.counter == .orphaned && t.outbound == [.counterChange .opened .orphaned .supervisionExpired none 1,
        .sessionEnd 0 7 .workstationLost]
        && (t.device 1).queue.map (·.command) == [.showText powerOnClosedText]) = true := by decide +kernel

/-- R180 row 7: a station owed the idle text is owed the closed text where its keypad is still ENGAGED, and none where
step 4 of R167 has queued it. -/
theorem test_supervision_owed :
    ∀ x ∈ [(PortState.engaged, some OwedText.closed, 0), (.ready, none, 1)],
      let s := owing (inState (ending calm 0) 1 x.1) .idle .opened;
      yes (exec .supervisionExpired (dueAt s .counter .supervision 50)) (fun t =>
        t.textOwed[0] == x.2.1 && (t.device 1).queue.length == x.2.2) = true := by decide +kernel

/-- The SETTLE entry at the head in a counter state. -/
def settling (c : CounterState) : State := dueAt { calm with counter := c } .counter .settle 50

theorem witness_SettleEntryOpensTheCounter :
    ∀ c ∈ [CounterState.waking, .starting], (settling c).counter = c
      ∧ (settling c).deadlines = ⟨.counter, .settle, 50⟩ :: [] ∧ ((settling c).reach 50).isSome = true
      ∧ ∀ x ∈ (settling c).outbound, x.key ≠ some .counterChange := by decide +kernel

theorem test_settle :
    yes (exec .settled (settling .waking)) (fun t =>
      t.outbound == [.counterChange .waking .opened .settled none 1]) = true
    ∧ yes (exec .startCap (settling .starting)) (fun t =>
      t.outbound == [.counterChange .starting .opened .startCap none 1]) = true := by decide +kernel

/-! ### The counter bus -/

/-- Two READY devices due, the ENGAGED keypad of station 8 due later, and a text in its queue. -/
def busy : State :=
  let s := (inState calm 15 .engaged).modifyDevice 15 fun d => { d with queue := [⟨.showText [65], .counter⟩] };
  { ((s.setDue 2 (some (.now 10))).setDue 1 (some (.now 10))).setDue 15 (some (.now 5)) with tick := 50 }

theorem witness_ArbiterCarriesTheDeviceDueFirst :
    busy.flight = none ∧ busy.pendingDirect = none ∧ (busy.waited 15).isSome = true
      ∧ (busy.device 15).state = .engaged ∧ (busy.waited 1).isSome = true ∧ (busy.device 1).state.addressed = true := by
  decide +kernel

/-- R142: a device due now stays due as the counter advances, across 2^32 ticks and more, and one whose due tick is
reached becomes due. -/
theorem test_due_passes :
    (busy.advanceTo 49).due 15 = some (.now 4294967300)
      ∧ ((busy.setDue 2 (some (.next 51))).advanceTo 50).due 2 = some (.next 51)
      ∧ ((busy.setDue 2 (some (.next 51))).advanceTo 53).due 2 = some (.now 2)
      ∧ ({ busy with tick := 4294967295 }.setDue 2 (some (.next 0))).tickOnce.due 2 = some (.now 0) := by decide +kernel

/-- R144: the ENGAGED device first, and then of two due together the lower address. -/
theorem test_arbitrate :
    yes (exec .busArbitrate busy) (fun t =>
      (t.flight.map fun f => (f.port, f.request, f.carried)) == some (15, .poll, some (.showText [65], false))
        && (t.device 15).inCarriage) = true
    ∧ yes (exec .busArbitrate (busy.setDue 15 none)) (fun t => (t.flight.map (·.port)) == some 1) = true := by
  decide +kernel

/-- A direct exchange pending at a device in a state. -/
def directWaits (x : PortState) : State := { inState calm 1 x with pendingDirect := some ⟨1, [1, 2], 6⟩ }

theorem witness_DirectExchangeGoesFirst :
    ∀ x ∈ [PortState.joining, .ready, .dozing, .restarting, .held, .unpowered, .absent],
      (directWaits x).flight = none ∧ (directWaits x).pendingDirect = some ⟨1, [1, 2], 6⟩
        ∧ ((directWaits x).device 1).state = x := by decide +kernel

theorem test_direct_first :
    yes (exec .busArbitrate (directWaits .dozing)) (fun t =>
      (t.flight.map fun f => (f.request, f.direct, f.bytes.take 3, (f.bytes.drop 4).take 3))
        == some (.diag, some 6, [0x5A, 2, 6], [2, 1, 2])) = true
    ∧ yes (exec .busArbitrate (directWaits .held)) (fun t =>
      t.outbound == [.reply 6 0x8B .unavailable false []] && t.flight == none) = true := by decide +kernel

/-- A POLL in flight to a device in a state with a miss run and a restart count. -/
def polling (p : Port) (x : PortState) (misses restarts : Nat) : State :=
  flying (calm.modifyDevice p fun d => { d with state := x, missRun := misses, restartCount := restarts }) p .poll

theorem witness_ExchangesEndWithoutAnAnswer :
    (let s := flying (inState calm 3 .restarting) 3 .resetDevice;
      s.flight = some ⟨3, .resetDevice, none, false, none, []⟩ ∧ (s.device 3).state = .restarting
        ∧ s.waited 3 = none)
    ∧ (∀ x ∈ [PortState.absent, .restarting, .held, .unpowered, .joining, .ready, .engaged, .dozing],
      (polling 3 x 2 0).flight = some ⟨3, .poll, none, false, none, []⟩ ∧ ((polling 3 x 2 0).device 3).state = x)
    ∧ ((polling 3 .ready 1 4).device 3).missRun < 2 ∧ ((polling 3 .ready 2 4).device 3).restartCount = 4
    ∧ answerOf 3 .poll [] = none ∧ answerOf 3 .probe [] = none ∧ answerOf 3 .identify [] = none
    ∧ answerOf 3 .configure [] = none ∧ answerOf 3 .diag [] = none := by decide +kernel

theorem test_reset_device_sent :
    yes (exec .resetDeviceSent (flying (inState calm 3 .restarting) 3 .resetDevice)) (fun t =>
      t.flight == none && t.due 3 == some (.next 100)) = true := by decide +kernel

theorem test_exchange_miss :
    yes (exec .exchangeMiss (polling 3 .ready 2 0)) (fun t =>
      t.outbound == [.deviceChange 3 .ready .restarting .misses 1] && (t.device 3).restartCount == 1
        && t.due 3 == some (.now 0)) = true
    ∧ yes (exec .exchangeMiss (polling 3 .ready 2 4)) (fun t =>
      t.outbound == [.deviceChange 3 .ready .held .restartLimit 1] && t.due 3 == none) = true := by decide +kernel

/-- A PROBE in flight to a device in a state, the counter in a state, and the station's wake mask all one flag. -/
def probing (x : PortState) (c : CounterState) (join : Bool) : State :=
  { flying (inState calm 3 x) 3 .probe with counter := c, wakeMask := Vector.replicate 8 ⟨false, false, false, join⟩ }

/-- The answer with no events of an awake device. -/
def noEvents (p : Port) : List Byte := answerFrame p 1 0 [0]

theorem witness_ProbeAnswerJoinsTheDevice :
    answerOf 3 .probe (noEvents 3) = some (awake false false (.events []))
      ∧ (∀ x ∈ [PortState.absent, .restarting], ∀ c ∈ [CounterState.lull, .opened, .starting], ∀ j ∈ [true, false],
        (probing x c j).flight = some ⟨3, .probe, none, false, none, []⟩ ∧ ((probing x c j).device 3).state = x
          ∧ (probing x c j).counter = c ∧ ((probing x c j).wakeMask[(stationOf 3).val]).join = j) := by decide +kernel

theorem test_probe_answer :
    yes (exec (.probeAnswer (noEvents 3)) (probing .absent .lull true)) (fun t =>
      t.counter == .waking && t.outbound == [.deviceChange 3 .absent .joining .probed 1,
        .counterChange .lull .waking .woken (some ⟨.deviceJoin, some 1⟩) 1]) = true := by decide +kernel

/-- An identity: kind, model 0x0102, firmware 9, concealed entry yes. -/
def identityFrame (kind : Byte) : List Byte := answerFrame 3 1 0 [kind, 2, 1, 9, 1]

theorem witness_IdentifyAnswerIsJudged :
    let s := flying (inState calm 3 .joining) 3 .identify;
    s.flight = some ⟨3, .identify, none, false, none, []⟩ ∧ (s.device 3).state = .joining
      ∧ (∀ k ∈ [(1 : Byte), 2, 9],
        answerOf 3 .identify (identityFrame k) = some (awake false false (.identity ⟨k, 0x0102, 9, true⟩)))
      ∧ (kindOf 3).code = 2 := by decide +kernel

theorem test_identify_answer :
    yes (exec (.identifyAnswer (identityFrame 2)) (flying (inState calm 3 .joining) 3 .identify)) (fun t =>
      t.owes 3 == some .configure && (t.device 3).identity == some ⟨2, 0x0102, 9, true⟩) = true
    ∧ yes (exec (.identifyAnswer (identityFrame 1)) (flying (inState calm 3 .joining) 3 .identify)) (fun t =>
      (t.device 3).heldReason == some .wrongKind
        && t.outbound == [.deviceChange 3 .joining .held .wrongKind 1]) = true := by decide +kernel

/-- A CONFIGURE in flight to a JOINING device. -/
def configuring (p : Port) (doze : Bool) (c : CounterState) : State :=
  { (inState calm p .joining).setOwed p (some .configure) with
    flight := some ⟨p, .configure, none, doze, none, []⟩, counter := c }

theorem witness_ConfigureAnswerCompletesJoining :
    ∀ p ∈ [(0 : Port), 15], ∀ doze ∈ [true, false], ∀ c ∈ [CounterState.opened, .lull, .orphaned],
      let s := configuring p doze c;
      s.flight = some ⟨p, .configure, none, doze, none, []⟩ ∧ (s.device p).state = .joining
        ∧ answerOf p .configure (noEvents p) = some (awake false false (.events []))
        ∧ s.owes p = some .configure ∧ (s.device p).queue = [] ∧ (s.device p).follower = none
        ∧ (s.device p).inCarriage = false := by decide +kernel

theorem test_configure_answer :
    yes (exec (.configureAnswer (noEvents 15)) (configuring 15 true .opened)) (fun t =>
      t.outbound == [.deviceChange 15 .joining .dozing .joined 1]
        && (t.device 15).queue.map (·.command) == [.showText [], .wake]
        && t.deadlines == [⟨.device 15, .device, 600000⟩]) = true := by decide +kernel

theorem witness_QuietPollRecordsTheStatus :
    (∀ x ∈ [PortState.ready, .engaged],
      let s := polling 3 x 2 0;
      s.flight = some ⟨3, .poll, none, false, none, []⟩ ∧ (s.device 3).state = x
        ∧ answerOf 3 .poll (noEvents 3) = some (awake false false (.events []))
        ∧ (s.device 3).dozeDisagrees ⟨true, false, []⟩ = false ∧ s.waited 3 = none
        ∧ (s.session (stationOf 3)).phase ≠ some .waitingClear)
    ∧ (let s := polling 3 .dozing 2 0;
      answerOf 3 .poll (answerFrame 3 0 5 [0]) = some ⟨⟨false, false, []⟩, true, false, true, .events []⟩
        ∧ (s.device 3).state = .dozing ∧ (s.device 3).dozeDisagrees ⟨false, false, []⟩ = false) := by decide +kernel

theorem test_poll_answer :
    yes (exec (.pollAnswer (noEvents 3)) (polling 3 .engaged 2 0)) (fun t =>
      t.due 3 == some (.next 20) && (t.device 3).missRun == 0 && (t.device 3).status == some ⟨true, false, []⟩) = true := by
  decide +kernel

/-- A POLL in flight that carries the head of the queue, INTAKE-OFF, with INTAKE-ON to follow it. -/
def carrying (restarts : Nat) : State :=
  { calm.modifyDevice 0 fun d =>
      { d with
        queue := [⟨.intakeOff, .counter⟩, ⟨.doze, .counter⟩], inCarriage := true, follower := some ⟨.intakeOn, .ports⟩,
        restartCount := restarts } with
    flight := some ⟨0, .poll, some (.intakeOff, false), false, none, []⟩ }

/-- A POLL in flight to the reader of station 1 in a state that carries a command. -/
def carryingOf (x : PortState) (q : Queued) (s : State) : State :=
  { s.modifyDevice 0 fun d => { d with state := x, inCarriage := true, queue := [q] } with
    flight := some ⟨0, .poll, some (q.command, false), false, none, []⟩ }

/-- INTAKE-ON carried for a CARD step in STARTING that waits on it and on others. -/
def setupCarried (others : List Wait) : State :=
  carryingOf .engaged ⟨.intakeOn, .session 0 1 .setup⟩
    ((running calm 0 .starting [cardStep]).modifySession 0 fun r => { r with waits := ⟨0, .intake⟩ :: others })

/-- INTAKE-OFF carried for a session in ENDING that waits on it and on others. -/
def windDownCarried (others : List Wait) : State :=
  carryingOf .engaged ⟨.intakeOff, .session 0 0 .windDown⟩
    ((ending calm 0).modifySession 0 fun r => { r with waits := ⟨0, .intake⟩ :: others })

theorem witness_CarriedCommandIsConfirmedOrFaults :
    (∀ n ∈ [0, 4], (carrying n).flight = some ⟨0, .poll, some (.intakeOff, false), false, none, []⟩
      ∧ ((carrying n).device 0).state = .ready ∧ ((carrying n).device 0).inCarriage = true
      ∧ ((carrying n).device 0).queue = ⟨.intakeOff, .counter⟩ :: [⟨.doze, .counter⟩]
      ∧ ((carrying n).device 0).restartCount = n
      ∧ ((carrying n).device 0).dozeDisagrees ⟨true, false, []⟩ = false
      ∧ ((carrying n).session (stationOf 0)).phase ≠ some .waitingClear)
    ∧ answerOf 0 .poll (answerFrame 0 1 2 [0]) = some (awake false true (.events []))
    ∧ answerOf 0 .poll (noEvents 0) = some (awake false false (.events []))
    ∧ (∀ x ∈ [(PortState.ready, DeviceCommand.doze, (0 : Byte)), (.dozing, .wake, 1)],
      let s := carryingOf x.1 ⟨x.2.1, .counter⟩ calm;
      s.flight = some ⟨0, .poll, some (x.2.1, false), false, none, []⟩ ∧ (s.device 0).state = x.1
        ∧ (s.device 0).inCarriage = true ∧ (s.device 0).queue = ⟨x.2.1, .counter⟩ :: []
        ∧ (answerOf 0 .poll (answerFrame 0 x.2.2 2 [0])).map (·.taken) = some true
        ∧ ∀ y ∈ s.outbound, y.key ≠ some (.deviceChange 0))
    ∧ (∀ w ∈ [[], [(⟨1, .text⟩ : Wait)]],
      (let s := setupCarried w;
        s.flight = some ⟨0, .poll, some (.intakeOn, false), false, none, []⟩ ∧ (s.session 0).state = .running
          ∧ (s.session 0).phase = some .starting ∧ (s.session 0).step? ≠ none
          ∧ (s.device 0).queue = ⟨.intakeOn, .session 0 (s.session 0).serial .setup⟩ :: []
          ∧ (s.device 0).inCarriage = true ∧ (s.session 0).waits = ⟨0, .intake⟩ :: w)
      ∧ (let s := windDownCarried w;
        s.flight = some ⟨0, .poll, some (.intakeOff, false), false, none, []⟩ ∧ (s.session 0).state = .ending
          ∧ (s.session 0).pendingResult = none ∧ s.outstanding 0 = false
          ∧ (s.device 0).queue = ⟨.intakeOff, .session 0 (s.session 0).serial .windDown⟩ :: []
          ∧ (s.device 0).inCarriage = true ∧ (s.session 0).waits = ⟨0, .intake⟩ :: w))
    ∧ (∀ x ∈ [(OwedText.idle, CounterState.opened), (.closed, .orphaned)],
      let s := owing (inState (windDownCarried []) 1 .engaged) x.1 x.2;
      s.flight = some ⟨0, .poll, some (.intakeOff, false), false, none, []⟩ ∧ (s.session 0).state = .ending
        ∧ (s.session 0).pendingResult = none ∧ s.outstanding 0 = false
        ∧ (s.device 0).queue = ⟨.intakeOff, .session 0 (s.session 0).serial .windDown⟩ :: []
        ∧ (s.session 0).waits = ⟨0, .intake⟩ :: [] ∧ (s.device (keypadOf 0)).state = .engaged
        ∧ s.counter = x.2 ∧ s.textOwed[(0 : Station).val] = some x.1) := by decide +kernel

/-- R168, R180 row 7: the text owed is queued to the keypad that the session hands back. -/
theorem test_owed_text :
    ∀ x ∈ [(OwedText.idle, CounterState.opened, ([] : Text)), (.closed, .orphaned, powerOnClosedText)],
      yes (exec (.pollAnswer (answerFrame 0 1 2 [0])) (owing (inState (windDownCarried []) 1 .engaged) x.1 x.2.1))
        (fun t => (t.device 1).state == .ready && (t.device 1).queue == [⟨.showText x.2.2, .counter⟩]
          && t.textOwed == Vector.replicate 8 none) = true := by decide +kernel

/-- R121: DOZE and WAKE taken; R21: the last wind-down command taken ends the session. -/
theorem test_power_and_wind_down_taken :
    yes (exec (.pollAnswer (answerFrame 0 0 2 [0])) (carryingOf .ready ⟨.doze, .counter⟩ calm)) (fun t =>
      t.outbound == [.deviceChange 0 .ready .dozing .dozed 1]) = true
    ∧ yes (exec (.pollAnswer (answerFrame 0 1 2 [0])) (carryingOf .dozing ⟨.wake, .counter⟩ calm)) (fun t =>
      t.outbound == [.deviceChange 0 .dozing .ready .woken 1]) = true
    ∧ yes (exec (.pollAnswer (answerFrame 0 1 2 [0])) (windDownCarried [])) (fun t =>
      t.outbound == [.sessionEnd 0 7 .timedOut, .deviceChange 0 .engaged .ready .sessionEnded 1]) = true := by
  decide +kernel

theorem test_command_taken :
    yes (exec (.pollAnswer (answerFrame 0 1 2 [0])) (carrying 0)) (fun t =>
      (t.device 0).queue.map (·.command) == [.intakeOn, .doze] && (t.device 0).commandToggle) = true := by decide +kernel

/-- A CARD step in STARTING whose INTAKE-ON is carried. -/
def settingUp : State :=
  let s := (running calm 0 .starting [cardStep]).modifySession 0 fun r => { r with waits := [⟨0, .intake⟩] };
  { s.modifyDevice 0 fun d =>
      { d with state := .engaged, inCarriage := true, queue := [⟨.intakeOn, .session 0 1 .setup⟩] } with
    flight := some ⟨0, .poll, some (.intakeOn, false), false, none, []⟩ }

theorem witness_LastSetupCommandEndsStarting :
    settingUp.flight = some ⟨0, .poll, some (.intakeOn, false), false, none, []⟩ ∧ (0 : Port) = readerOf 0
      ∧ answerOf 0 .poll (answerFrame 0 1 2 [0]) = some (awake false true (.events []))
      ∧ answerOf 0 .poll (answerFrame 0 3 2 [0]) = some ⟨⟨true, true, []⟩, false, true, false, .events []⟩
      ∧ (settingUp.device 0).state = .engaged ∧ (settingUp.device 0).inCarriage = true
      ∧ (settingUp.device 0).queue = ⟨.intakeOn, .session 0 1 .setup⟩ :: [] ∧ (settingUp.session 0).serial = 1
      ∧ (settingUp.session 0).state = .running ∧ (settingUp.session 0).phase = some .starting
      ∧ (settingUp.session 0).step? = some ⟨[], .card 3 300⟩ ∧ (settingUp.session 0).waits = [⟨0, .intake⟩]
      ∧ settingUp.settings.warnLead ≠ 0 ∧ settingUp.settings.warnLead < 300 := by decide +kernel

/-- R10, R58: with a card in the slot the step waits for it to clear, its deadlines placed. -/
theorem test_end_of_starting :
    yes (exec (.pollAnswer (answerFrame 0 3 2 [0])) settingUp) (fun t =>
      (t.session 0).phase == some .waitingClear
        && t.deadlines == [⟨.session 0, .warn, 25000⟩, ⟨.session 0, .step, 30000⟩]) = true := by decide +kernel

/-- A POLL in flight to the keypad of station 1 in a plain entry with a buffer. -/
def keying (buffer : Digits) : State :=
  polling 1 .engaged 0 0 |> fun s => (running s 0 .active [entryStep]).modifySession 0 fun r =>
    { r with entryBuffer := buffer }

/-- A new batch of one KEY event. -/
def keyFrame (code : Byte) : List Byte := answerFrame 1 1 1 [1, 1, code]

theorem witness_KeysAreTakenByPhase :
    (∀ l ∈ [[], [1, 2, 3, 4, 5], [1, 2, 3, 4, 5, 6]],
      (keying l).flight = some ⟨1, .poll, none, false, none, []⟩ ∧ (1 : Port) = keypadOf 0
        ∧ ((keying l).device 1).batchToggle = false ∧ ((keying l).device 1).state = .engaged
        ∧ ((keying l).session 0).state = .running ∧ ((keying l).session 0).phase = some .active
        ∧ ((keying l).session 0).step? = some ⟨[65], .entry .plain 4 6 false 100 50 300⟩
        ∧ ((keying l).session 0).entryBuffer.length ≤ 6)
    ∧ answerOf 1 .poll (keyFrame 9) = some (awake true false (.events [.key (.digit 9)]))
    ∧ answerOf 1 .poll (keyFrame 13) = some (awake true false (.events [.key .call]))
    ∧ (∀ n ∈ [0, 1, 254, 255], ∀ c ∈ [CounterState.opened, .orphaned],
      let s := { polling 1 .ready 0 0 with
        counter := c, outbound := if n = 0 then [] else [.stationCall 0 n] };
      s.flight = some ⟨1, .poll, none, false, none, []⟩ ∧ s.counter = c
        ∧ (s.device 1).dozeDisagrees ⟨true, false, []⟩ = false ∧ (s.session 0).phase ≠ some .waitingClear
        ∧ s.coalescedQueue ∧ (n ≠ 0 → .stationCall 0 n ∈ s.outbound)) := by decide +kernel

/-- R34, R38, R40: the digit is echoed on line 2, and the KEY deadline is timed by the inter-key time. -/
theorem test_digit :
    yes (exec (.pollAnswer (keyFrame 9)) (keying [4])) (fun t =>
      (t.session 0).entryBuffer == [4, 9] && t.deadlineOf (.session 0) .key == some 5000
        && (t.device 1).queue.map (·.command) == [.showText (65 :: List.replicate 19 32 ++ [52, 57])]) = true := by
  decide +kernel

/-- A POLL in flight to the reader of station 1 in a CARD step, the worked table held. -/
def reading : State :=
  { running (polling 0 .engaged 0 0) 0 .active [cardStep] with policy := workedTable, businessMonth := some ⟨27, 5⟩ }

/-- The worked reading as a TRACK event in a new batch. -/
def trackFrame : List Byte := answerFrame 0 1 1 ([1, 5, 28] ++ workedTrack.map byteOf ++ [14])

theorem witness_JudgedCardDelivers :
    reading.flight = some ⟨0, .poll, none, false, none, []⟩ ∧ (0 : Port) = readerOf 0
      ∧ answerOf 0 .poll trackFrame = some (awake true false (.events [.track workedTrack 14]))
      ∧ (reading.device 0).batchToggle = false ∧ (reading.device 0).state = .engaged
      ∧ (reading.session 0).state = .running ∧ (reading.session 0).phase = some .active
      ∧ (reading.session 0).step? = some ⟨[], .card 3 300⟩ ∧ (reading.session 0).retryWait = false
      ∧ (reading.session 0).tag = some 7 ∧ (reading.session 0).index = some 1 ∧ reading.outstanding 0 = false
      ∧ evaluate reading.policy reading.defaultPolicy reading.businessMonth workedTrack 14
        = .accepted workedCard ⟨[5, 3, 8, 0], ⟨true, 16, 19, true, true, 4, 4⟩⟩
      ∧ (sendingItem reading (.sessionEnd 0 6 .completed)).outstanding 0 = true
      ∧ evaluate (workedTable.take 1) reading.defaultPolicy reading.businessMonth workedTrack 14 = .refused .onPrefix := by
  decide +kernel

theorem test_card_read :
    yes (exec (.pollAnswer trackFrame) reading) (fun t =>
      t.outbound == [.progress 0 7 1 .delivering 0 false 0, .stepResult ⟨0, 7, 1, .cardOk workedCard [5, 3, 8, 0]⟩]
        && (t.device 0).queue.map (·.command) == [.intakeOff]) = true := by decide +kernel

def concealedStep : StepRecord := ⟨[80], .entry .concealed 4 6 true 100 50 300⟩

/-- A POLL in flight to the keypad of station 1 in a concealed entry bounded by the card, 4..6 with 5..12. -/
def concealing : State :=
  (running (polling 1 .engaged 0 0) 0 .active [concealedStep]).modifySession 0 fun r =>
    { r with policyCopy := some ⟨[], { Policy.powerOn with concealedMin := 5 }⟩, concealedOpen := true }

/-- A SEALED report of n digits in a new batch. -/
def sealedFrame (n : Byte) : List Byte := answerFrame 1 1 1 ([1, 3, n] ++ List.replicate 16 0xAB)

theorem witness_SealedBlockDeliversOrFaults :
    (concealing.session 0).entryBounds concealedStep.kind = (5, 6)
      ∧ concealing.flight = some ⟨1, .poll, none, false, none, []⟩ ∧ (1 : Port) = keypadOf 0
      ∧ (∀ n ∈ [(4 : Byte), 5, 6, 7],
        answerOf 1 .poll (sealedFrame n) = some (awake true false (.events [.sealedBlock n.toNat (List.replicate 16 0xAB)])))
      ∧ (concealing.device 1).batchToggle = false ∧ (concealing.device 1).state = .engaged
      ∧ (concealing.session 0).state = .running ∧ (concealing.session 0).phase = some .active
      ∧ (concealing.session 0).step? = some ⟨[80], .entry .concealed 4 6 true 100 50 300⟩
      ∧ (concealing.session 0).tag = some 7 ∧ (concealing.session 0).index = some 1 := by decide +kernel

theorem test_sealed :
    yes (exec (.pollAnswer (sealedFrame 6)) concealing) (fun t =>
      t.outbound == [.progress 0 7 1 .delivering 6 false 0,
        .stepResult ⟨0, 7, 1, .entryConcealed 6 (List.replicate 16 0xAB)⟩]) = true
    ∧ yes (exec (.pollAnswer (sealedFrame 4)) concealing) (fun t =>
      t.outbound == [.deviceChange 1 .engaged .restarting .protocol 1, .sessionEnd 0 7 .deviceLost]) = true := by
  decide +kernel

/-- A direct exchange in flight to a device in a state. -/
def diagnosing (x : PortState) : State :=
  { inState calm 3 x with flight := some ⟨3, .diag, none, false, some 6, []⟩ }

theorem witness_DiagAnswerRepliesWithItsPayload :
    answerOf 3 .diag (answerFrame 3 1 0 [2, 8, 9]) = some (awake false false (.diag [8, 9]))
      ∧ (∀ x ∈ [PortState.ready, .joining, .restarting, .held, .unpowered],
        (diagnosing x).flight = some ⟨3, .diag, none, false, some 6, []⟩ ∧ ((diagnosing x).device 3).state = x)
      ∧ ((diagnosing .ready).device 3).dozeDisagrees ⟨true, false, []⟩ = false := by decide +kernel

theorem test_diag_answer :
    yes (exec (.diagAnswer (answerFrame 3 1 0 [2, 8, 9])) (diagnosing .restarting)) (fun t =>
      t.outbound == [.reply 6 0x8B .done false [2, 8, 9], .deviceChange 3 .restarting .joining .probed 1]) = true := by
  decide +kernel

/-! ### What every step keeps, and what only some commands do -/

theorem witness_EveryStepKeepsTheInvariants :
    calm.oneEntryEach ∧ calm.policyGood ∧ calm.suppliesGood ∧ calm.repliesWithinEight ∧ calm.coalescedQueue
      ∧ calm.settingsGood ∧ yes (step calm) (fun t => t.tick == 1) = true := by decide +kernel

theorem witness_LockedIsLeftOnlyByRestoreOrPowerOn :
    ((supplyIn calm 0 .locked 3).supply 0).state = .locked
      ∧ yes (exec .frameSent (supplyIn calm 0 .locked 3)) (fun _ => true) = true := by decide +kernel

theorem witness_StoreChangesOnlyByItsCommands :
    yes (exec .frameSent calm) (fun _ => true) = true ∧ calm.resetPending ≠ some .full := by decide +kernel

end Sys2Proof.Tests
end

