-- ==== Sys2Proof/Proofs/DueTest.lean ====
section
/-! PROOFS. The count d ticks ahead, seen from before and from behind, and the due test on it (R92, R94, R95). Two counts
ahead of one instant differ as a count and its own count ahead do (`ahead_eq_ahead_ahead`), so every fact is said of an
instant t and `ahead t d` alone. -/

namespace Sys2Proof.Machine

/-! ### Counts ahead (R92, R94) -/

theorem ahead_ahead (t : Tick) (a b : Nat) : ahead (ahead t a) b = ahead t (a + b) := by
  simp only [ahead, BitVec.ofNat_add, BitVec.add_assoc]

/-- The entry placed d ticks ahead stands d - k ticks ahead k ticks on. -/
theorem ahead_eq_ahead_ahead (t : Tick) {k d : Nat} (h : k ≤ d) : ahead t d = ahead (ahead t k) (d - k) := by
  rw [ahead_ahead, Nat.add_sub_cancel' h]

theorem ahead_sub_self (t : Tick) (d : Nat) : ahead t d - t = BitVec.ofNat 32 d := add_sub_cancel_left t _

theorem toNat_ahead_sub_self (t : Tick) {d : Nat} (h : d < 4294967296) : (ahead t d - t).toNat = d := by
  rw [ahead_sub_self, BitVec.toNat_ofNat, Nat.mod_eq_of_lt h]

theorem toNat_self_sub_ahead (t : Tick) {d : Nat} (hpos : 0 < d) (h : d < 4294967296) :
    (t - ahead t d).toNat = 4294967296 - d := by
  have hneg : t - ahead t d = -(ahead t d - t) := (neg_sub _ _).symm
  rw [hneg, BitVec.toNat_neg, toNat_ahead_sub_self t h]
  exact Nat.mod_eq_of_lt (by omega)

theorem distance_ahead (t : Tick) {d : Nat} (h : d < 4294967296) : distance t (ahead t d) = d :=
  toNat_ahead_sub_self t h

/-! ### The due test (R95) -/

theorem isDue_iff (now deadline : Tick) : isDue now deadline = true ↔ (now - deadline).toNat < 2147483648 :=
  decide_eq_true_iff

theorem toNat_tick_sub (now deadline : Tick) :
    (now - deadline).toNat = (now.toNat + 4294967296 - deadline.toNat) % 4294967296 := by
  have := deadline.isLt
  rw [BitVec.toNat_sub]
  congr 1
  omega

/-- An entry stays due for the 2³¹ − 1 ticks that follow its deadline. -/
theorem isDue_ahead_self (t : Tick) {j : Nat} (h : j < 2147483648) : isDue (ahead t j) t = true := by
  rwa [isDue_iff, toNat_ahead_sub_self t (by omega)]

/-- An entry up to 2³¹ ticks ahead is not due yet. -/
theorem not_isDue_ahead (t : Tick) {d : Nat} (hpos : 0 < d) (h : d ≤ 2147483648) : isDue t (ahead t d) = false := by
  rw [← Bool.not_eq_true, isDue_iff, toNat_self_sub_ahead t hpos (by omega)]
  omega

theorem isDue_ahead_iff_distance_eq_zero (t : Tick) {d : Nat} (h : d ≤ 2147483648) :
    isDue t (ahead t d) = true ↔ distance t (ahead t d) = 0 := by
  rw [distance_ahead t (by omega)]
  rcases Nat.eq_zero_or_pos d with rfl | hpos
  · simp [ahead, isDue_self]
  · simp [not_isDue_ahead t hpos h, hpos.ne']

/-- Settles O34: k ticks on, the entry placed d ticks ahead stands d - k ticks ahead, and the due test is read there. -/
theorem dueTestAcrossTheWrap : Obligations.DueTestAcrossTheWrap := by
  refine ⟨fun now deadline => by rw [isDue_iff, toNat_tick_sub],
    fun now d hd => ⟨fun k hk => ?_, fun j hj => ?_, fun k hk => ?_⟩⟩
  · have hpos : 0 < d - k := Nat.sub_pos_of_lt hk
    rw [ahead_eq_ahead_ahead now hk.le]
    exact ⟨toNat_self_sub_ahead _ hpos (by omega), not_isDue_ahead _ hpos (by omega), distance_ahead _ (by omega)⟩
  · exact isDue_ahead_self _ hj
  · rw [ahead_eq_ahead_ahead now hk]
    exact isDue_ahead_iff_distance_eq_zero _ (by omega)

end Sys2Proof.Machine
end

section
/-! PROOFS. DEVICE-RELEASE (R118). The release of a HELD device is one write of its record, its request no longer owed,
its due tick, and its DEVICE-CHANGE (`State.releaseHeld_spec`); the start of a frame then moves at most one item from the
outbound queue to the line, and what the part shows is the same (`State.shows_beginNext`). -/

namespace Sys2Proof.Machine

variable (s : State) (p : Port)

/-! ### What the start of a frame leaves (R190) -/

@[simp] theorem State.beginNext_tick : s.beginNext.tick = s.tick := by rw [s.beginNext_eq]
@[simp] theorem State.beginNext_sessions : s.beginNext.sessions = s.sessions := by rw [s.beginNext_eq]
@[simp] theorem State.beginNext_devices : s.beginNext.devices = s.devices := by rw [s.beginNext_eq]
@[simp] theorem State.beginNext_nextDue : s.beginNext.nextDue = s.nextDue := by rw [s.beginNext_eq]
@[simp] theorem State.beginNext_supplies : s.beginNext.supplies = s.supplies := by rw [s.beginNext_eq]
@[simp] theorem State.beginNext_deadlines : s.beginNext.deadlines = s.deadlines := by rw [s.beginNext_eq]
@[simp] theorem State.beginNext_counter : s.beginNext.counter = s.counter := by rw [s.beginNext_eq]
@[simp] theorem State.beginNext_device : s.beginNext.device p = s.device p := by simp [State.device]
@[simp] theorem State.beginNext_waited : s.beginNext.waited p = s.waited p := by simp [State.waited, State.due]

/-! ### Due ticks (R142, R143) -/

theorem State.dueNow_spec : ∃ n, s.dueNow p = { s with nextDue := n } := by
  unfold State.dueNow
  split
  · exact ⟨_, rfl⟩
  · exact ⟨_, rfl⟩
  · exact ⟨_, rfl⟩

theorem State.dueWithin_spec (d : Nat) : ∃ n, s.dueWithin p d = { s with nextDue := n } := by
  unfold State.dueWithin
  split
  · exact ⟨_, rfl⟩
  · split
    · exact ⟨_, rfl⟩
    · exact ⟨_, rfl⟩
  · exact ⟨_, rfl⟩

theorem State.dueAfterChange_spec : ∃ n, s.dueAfterChange p = { s with nextDue := n } := by
  unfold State.dueAfterChange
  dsimp only
  split
  · exact ⟨_, rfl⟩
  · split
    · exact s.dueNow_spec p
    · exact s.dueWithin_spec p _

/-- A device made due at once is due, whether or not it was before. -/
theorem State.waited_dueNow : ((s.dueNow p).waited p).isSome = true := by
  unfold State.dueNow
  split
  · rename_i n h
    rw [(s.waited_eq_some).2 h]
    rfl
  all_goals rw [(State.waited_eq_some _).2 (s.due_setDue p _)]; rfl

/-! ### Placing a DEVICE-CHANGE (R128, R189) -/

/-- A notice placed stands: as it is, or as the update of one that stood. -/
theorem placed_mem_coalesce (k : ItemKey) (u : Item → Item) (i : Item) (l : List Item) :
    i ∈ coalesce k u i l ∨ ∃ y, y.key = some k ∧ u y ∈ coalesce k u i l := by
  induction l with
  | nil => exact .inl (by simp [coalesce])
  | cons x xs ih =>
    rw [coalesce]
    split
    · rename_i h
      exact .inr ⟨x, h, by simp⟩
    · exact ih.imp (List.mem_cons_of_mem x) fun ⟨y, h, m⟩ => ⟨y, h, List.mem_cons_of_mem x m⟩

theorem Item.eq_deviceChange_of_key {i : Item} {p : Port} (h : i.key = some (.deviceChange p)) :
    ∃ before after reason n, i = .deviceChange p before after reason n := by
  cases i <;> simp_all [Item.key]

/-- The DEVICE-CHANGE that stands after one is placed gives the state reached and the reason of this change. -/
theorem State.mem_noteDevice (before after : PortState) (reason : DeviceReason) :
    ∃ b n, .deviceChange p b after reason n ∈ (s.noteDevice p before after reason).outbound := by
  unfold State.noteDevice
  rw [State.note_outbound]
  rcases placed_mem_coalesce (.deviceChange p) _ (.deviceChange p before after reason 1) s.outbound with h | ⟨y, hy, h⟩
  · exact ⟨_, _, h⟩
  · obtain ⟨b, a, r, n, rfl⟩ := Item.eq_deviceChange_of_key hy
    exact ⟨_, _, h⟩

theorem State.noteDevice_outbound_fresh (before after : PortState) (reason : DeviceReason)
    (h : ∀ x ∈ s.outbound, x.key ≠ some (.deviceChange p)) :
    (s.noteDevice p before after reason).outbound = s.outbound ++ [.deviceChange p before after reason 1] :=
  coalesce_fresh _ _ _ _ h

/-! ### The release of a device (R118) -/

/-- The record of a device as its release leaves it. -/
def Device.released (d : Device) : Device :=
  { d with state := .absent, restartCount := 0, heldReason := none, identity := none, status := none }

/-- The later of two writes of a device stays. -/
@[simp] theorem State.setDevice_setDevice (a b : Device) : (s.setDevice p a).setDevice p b = s.setDevice p b := by
  simp [State.setDevice]

/-- A change of port state writes the state, drops the request owed, moves the due tick and places the notice. -/
theorem State.changePort_spec (after : PortState) (reason : DeviceReason) : ∃ n, s.changePort p after reason =
    { (s.setDevice p { s.device p with state := after }).setOwed p none with nextDue := n }.noteDevice p
      (s.device p).state after reason := by
  obtain ⟨n, h⟩ :=
    ((s.modifyDevice p fun d => { d with state := after }).setOwed p none).dueAfterChange_spec p
  exact ⟨n, by unfold State.changePort; rw [h]; rfl⟩

theorem State.releaseHeld_spec : ∃ n, s.releaseHeld p =
    { (s.setDevice p (s.device p).released).setOwed p none with nextDue := n }.noteDevice p (s.device p).state .absent
      .released := by
  unfold State.releaseHeld State.modifyDevice
  obtain ⟨m, hm⟩ := State.changePort_spec (s.setDevice p
    { s.device p with restartCount := 0, heldReason := none, identity := none, status := none }) p .absent .released
  obtain ⟨n, hn⟩ := State.dueNow_spec (State.changePort _ p .absent .released) p
  refine ⟨n, ?_⟩
  rw [hn, hm, State.setDevice_setDevice, State.device_setDevice]
  rfl

theorem State.waited_releaseHeld : ((s.releaseHeld p).waited p).isSome = true := State.waited_dueNow _ p

@[simp] theorem State.releaseHeld_device : (s.releaseHeld p).device p = (s.device p).released := by
  obtain ⟨n, h⟩ := s.releaseHeld_spec p
  rw [h]
  exact s.device_setDevice p _

theorem State.releaseHeld_device_of_ne {x : Port} (hx : x ≠ p) : (s.releaseHeld p).device x = s.device x := by
  obtain ⟨n, h⟩ := s.releaseHeld_spec p
  rw [h]
  exact s.device_setDevice_of_ne hx _

/-- What the release of a device leaves: everything but the device's record, its owed request and its due tick, and the
outbound queue. -/
theorem State.releaseHeld_eq : s.releaseHeld p =
    { s with
      devices := (s.releaseHeld p).devices, owed := (s.releaseHeld p).owed, nextDue := (s.releaseHeld p).nextDue,
      outbound := (s.releaseHeld p).outbound } := by
  obtain ⟨n, h⟩ := s.releaseHeld_spec p
  rw [h]
  rfl

@[simp] theorem State.releaseHeld_sending : (s.releaseHeld p).sending = s.sending := by rw [s.releaseHeld_eq p]
@[simp] theorem State.releaseHeld_sessions : (s.releaseHeld p).sessions = s.sessions := by rw [s.releaseHeld_eq p]
@[simp] theorem State.releaseHeld_supplies : (s.releaseHeld p).supplies = s.supplies := by rw [s.releaseHeld_eq p]
@[simp] theorem State.releaseHeld_deadlines : (s.releaseHeld p).deadlines = s.deadlines := by rw [s.releaseHeld_eq p]
@[simp] theorem State.releaseHeld_counter : (s.releaseHeld p).counter = s.counter := by rw [s.releaseHeld_eq p]
@[simp] theorem State.releaseHeld_tick : (s.releaseHeld p).tick = s.tick := by rw [s.releaseHeld_eq p]

theorem State.exists_deviceChange_mem_releaseHeld :
    ∃ before n, .deviceChange p before .absent .released n ∈ (s.releaseHeld p).outbound := by
  obtain ⟨n, h⟩ := s.releaseHeld_spec p
  rw [h]
  exact State.mem_noteDevice _ p _ _ _

/-- Whatever is no coalesced notice goes on standing as the release places its own. -/
theorem State.mem_releaseHeld {i : Item} (hi : i.key = none) (h : i ∈ s.outbound) : i ∈ (s.releaseHeld p).outbound := by
  obtain ⟨n, e⟩ := s.releaseHeld_spec p
  rw [e]
  exact mem_coalesce_of_mem _ _ _ i s.outbound h (by simp [hi])

theorem State.releaseHeld_outbound_fresh (h : ∀ x ∈ s.outbound, x.key ≠ some (.deviceChange p)) :
    (s.releaseHeld p).outbound = s.outbound ++ [.deviceChange p (s.device p).state .absent .released 1] := by
  obtain ⟨n, e⟩ := s.releaseHeld_spec p
  rw [e]
  exact State.noteDevice_outbound_fresh _ p _ _ _ h

/-! ### DEVICE-RELEASE (R118) -/

/-- The kind of DEVICE-RELEASE's reply (section 11.2). -/
theorem deviceRelease_replyKind : (0x0A : Byte) ||| 0x80 = 0x8A := rfl

theorem exec_deviceRelease_oneByte (q a : Byte) : exec (.deviceRelease q [a]) s =
    commandRow ⟨0x0A, q, [a]⟩ (fun s => s.deviceRelease ⟨0x0A, q, [a]⟩ a) s := rfl

theorem State.deviceRelease_of_none (f : Frame) {a : Byte} (h : portOfByte a = none) :
    s.deviceRelease f a = s.answer f .badRequest false [] := by rw [State.deviceRelease, h]; rfl

theorem State.deviceRelease_of_not_held (f : Frame) {a : Byte} {p : Port} (h : portOfByte a = some p)
    (hs : (s.device p).state ≠ .held) : s.deviceRelease f a = s.answer f .wrongState false [] := by
  rw [State.deviceRelease, h]
  exact if_neg hs

theorem State.deviceRelease_of_held (f : Frame) {a : Byte} {p : Port} (h : portOfByte a = some p)
    (hs : (s.device p).state = .held) : s.deviceRelease f a = (s.answer f .done false []).releaseHeld p := by
  rw [State.deviceRelease, h]
  exact if_pos hs

theorem exec_deviceRelease_of_answer {q a : Byte} (ht : s.takesNow ⟨0x0A, q, [a]⟩) {o : ReplyOutcome}
    (h : s.takeHead.deviceRelease ⟨0x0A, q, [a]⟩ a = s.takeHead.answer ⟨0x0A, q, [a]⟩ o false []) :
    exec (.deviceRelease q [a]) s = .next (s.answeredWith (.reply q 0x8A o false [])) := by
  rw [exec_deviceRelease_oneByte, commandRow_answer s _ _ ht o false [] h, deviceRelease_replyKind]

/-- The state that an accepted DEVICE-RELEASE leaves before the transmitter begins. -/
def State.releasedByCommand (s : State) (q : Byte) (p : Port) : State :=
  (s.takeHead.append (.reply q 0x8A .done false [])).releaseHeld p

theorem exec_deviceRelease_of_held {q a : Byte} (ht : s.takesNow ⟨0x0A, q, [a]⟩) {p : Port} (h : portOfByte a = some p)
    (hs : (s.device p).state = .held) :
    exec (.deviceRelease q [a]) s = .next (s.releasedByCommand q p).beginNext := by
  have reply : s.takeHead.answer ⟨0x0A, q, [a]⟩ .done false [] = s.takeHead.append (.reply q 0x8A .done false []) := by
    rw [State.answer, State.reply, deviceRelease_replyKind]
  have effect : s.takeHead.deviceRelease ⟨0x0A, q, [a]⟩ a = s.releasedByCommand q p := by
    rw [State.deviceRelease_of_held _ _ h (by rwa [s.takeHead_device]), reply]
    rfl
  rw [exec_deviceRelease_oneByte, commandRow_same s _ _ ht, effect]
  rw [effect]
  simp [State.releasedByCommand]

/-- With no DEVICE-CHANGE of the device standing, the reply and behind it the notice are appended. -/
theorem State.releasedByCommand_outbound_fresh (q : Byte) (h : ∀ x ∈ s.outbound, x.key ≠ some (.deviceChange p)) :
    (s.releasedByCommand q p).outbound = s.outbound ++
      [.reply q 0x8A .done false [], .deviceChange p (s.device p).state .absent .released 1] := by
  rw [State.releasedByCommand, State.releaseHeld_outbound_fresh]
  · simp
  · intro x hx
    rw [State.append_outbound, s.takeHead_outbound, List.mem_append, List.mem_singleton] at hx
    rcases hx with hx | rfl
    · exact h x hx
    · simp [Item.key]

theorem State.sameStore_releasedByCommand (q : Byte) : SameStore s (s.releasedByCommand q p) := by
  rw [State.releasedByCommand, State.releaseHeld_eq]
  exact s.sameStore_takeHead

/-- Settles O13, by the three branches of the command; what an accepted one leaves is read through the start of the next
frame, the release and the taking in turn. -/
theorem deviceReleaseReturnsAHeldDevice : Obligations.DeviceReleaseReturnsAHeldDevice := by
  intro s q a ht
  refine ⟨fun h => ?_, fun p h => ⟨fun hs => ?_, fun hs => ?_⟩⟩
  · exact exec_deviceRelease_of_answer s ht (s.takeHead.deviceRelease_of_none _ h)
  · exact exec_deviceRelease_of_answer s ht (s.takeHead.deviceRelease_of_not_held _ h (by rwa [s.takeHead_device]))
  · have reply : .reply q 0x8A .done false [] ∈ (s.releasedByCommand q p).outbound :=
      State.mem_releaseHeld _ p rfl (by simp)
    obtain ⟨before, n, notice⟩ := State.exists_deviceChange_mem_releaseHeld
      (s.takeHead.append (.reply q 0x8A .done false [])) p
    refine ⟨_, exec_deviceRelease_of_held s ht h hs, ?record, ?due, State.shows_beginNext _ _ (.inl reply),
      ⟨before, n, State.shows_beginNext _ _ (.inl notice)⟩, ?queue, ?others, ?sessions, ?supplies, ?deadlines, ?counter,
      ?tick, ?store⟩
    case record => simp [State.releasedByCommand, Device.released]
    case due =>
      rw [State.beginNext_waited]
      exact State.waited_releaseHeld _ p
    case queue =>
      intro busy fresh
      rw [State.beginNext_of_sending _ (by simpa [State.releasedByCommand] using busy),
        s.releasedByCommand_outbound_fresh p q fresh, hs]
    case others =>
      intro x hx
      simp [State.releasedByCommand, State.releaseHeld_device_of_ne _ p hx]
    case store =>
      rw [State.beginNext_eq]
      exact s.sameStore_releasedByCommand p q
    all_goals simp [State.releasedByCommand]

end Sys2Proof.Machine
end

section
/-! PROOFS. The invariants that every step keeps. A step is a chain of changes (`step_changed`), so an invariant that the
reset state has and that every change keeps is kept by every step (`step_keeps`); each invariant is one case split over
the changes. -/

namespace Sys2Proof.Machine

/-! ### What the start of a frame leaves (R190) -/

@[simp] theorem State.beginNext_rate (s : State) : s.beginNext.rate = s.rate := by rw [s.beginNext_eq]
@[simp] theorem State.beginNext_receiver (s : State) : s.beginNext.receiver = s.receiver := by rw [s.beginNext_eq]
@[simp] theorem State.beginNext_intake (s : State) : s.beginNext.intake = s.intake := by rw [s.beginNext_eq]
@[simp] theorem State.beginNext_holding (s : State) : s.beginNext.holding = s.holding := by rw [s.beginNext_eq]
@[simp] theorem State.beginNext_owed (s : State) : s.beginNext.owed = s.owed := by rw [s.beginNext_eq]
@[simp] theorem State.beginNext_pendingDirect (s : State) : s.beginNext.pendingDirect = s.pendingDirect := by
  rw [s.beginNext_eq]
@[simp] theorem State.beginNext_flight (s : State) : s.beginNext.flight = s.flight := by rw [s.beginNext_eq]
@[simp] theorem State.beginNext_wakeMask (s : State) : s.beginNext.wakeMask = s.wakeMask := by rw [s.beginNext_eq]
@[simp] theorem State.beginNext_wakeCause (s : State) : s.beginNext.wakeCause = s.wakeCause := by rw [s.beginNext_eq]
@[simp] theorem State.beginNext_awaiting (s : State) : s.beginNext.awaiting = s.awaiting := by rw [s.beginNext_eq]
@[simp] theorem State.beginNext_textOwed (s : State) : s.beginNext.textOwed = s.textOwed := by rw [s.beginNext_eq]
@[simp] theorem State.beginNext_resetPending (s : State) : s.beginNext.resetPending = s.resetPending := by
  rw [s.beginNext_eq]
@[simp] theorem State.beginNext_settings (s : State) : s.beginNext.settings = s.settings := by rw [s.beginNext_eq]
@[simp] theorem State.beginNext_idleTexts (s : State) : s.beginNext.idleTexts = s.idleTexts := by rw [s.beginNext_eq]
@[simp] theorem State.beginNext_closedText (s : State) : s.beginNext.closedText = s.closedText := by rw [s.beginNext_eq]
@[simp] theorem State.beginNext_policy (s : State) : s.beginNext.policy = s.policy := by rw [s.beginNext_eq]
@[simp] theorem State.beginNext_defaultPolicy (s : State) : s.beginNext.defaultPolicy = s.defaultPolicy := by
  rw [s.beginNext_eq]
@[simp] theorem State.beginNext_businessMonth (s : State) : s.beginNext.businessMonth = s.businessMonth := by
  rw [s.beginNext_eq]
@[simp] theorem State.beginNext_session (s : State) (st : Station) : s.beginNext.session st = s.session st := by
  simp [State.session]
@[simp] theorem State.beginNext_supply (s : State) (st : Station) : s.beginNext.supply st = s.supply st := by
  simp [State.supply]
@[simp] theorem State.beginNext_due (s : State) (p : Port) : s.beginNext.due p = s.due p := by simp [State.due]
@[simp] theorem State.beginNext_owes (s : State) (p : Port) : s.beginNext.owes p = s.owes p := by simp [State.owes]
@[simp] theorem State.beginNext_deadlineOf (s : State) (o : Owner) (k : DeadlineKind) :
    s.beginNext.deadlineOf o k = s.deadlineOf o k := by simp [State.deadlineOf]

/-! ### The state after reset (R179) -/

theorem State.oneEntryEach_reset : State.reset.oneEntryEach := by decide

theorem State.policyGood_reset : State.reset.policyGood := ⟨⟨.nil, by decide, by decide⟩, by decide⟩

theorem State.supply_reset (st : Station) : State.reset.supply st = { Supply.blank with state := .trial } := by
  simp [State.supply, State.reset]

theorem State.device_reset (p : Port) : State.reset.device p = Device.blank := by simp [State.device, State.reset]

theorem State.suppliesGood_reset : State.reset.suppliesGood := fun st => by
  rw [State.supply_reset]
  decide

theorem State.repliesWithinEight_reset : State.reset.repliesWithinEight := by decide

theorem State.coalescedQueue_reset : State.reset.coalescedQueue := by decide

theorem State.settingsGood_reset : State.reset.settingsGood :=
  ⟨by decide, fun p => by rw [State.device_reset]; decide⟩

/-- Settles O58. -/
theorem resetMeetsEveryInvariant : Obligations.ResetMeetsEveryInvariant :=
  ⟨State.oneEntryEach_reset, State.policyGood_reset, State.suppliesGood_reset, State.repliesWithinEight_reset,
    State.coalescedQueue_reset, State.settingsGood_reset⟩

variable {A : Rights} {s t : State}

/-! ### Deadlines (R93, R94) -/

/-- Entries come by placing alone, which removes the one of the same owner and kind; every other change takes entries
away or leaves them. -/
theorem Change.oneEntryEach (c : Change A s t) (h : s.oneEntryEach) : t.oneEntryEach := by
  cases c with
  | edited e => exact e.oneEntryEach h
  | start => rwa [State.oneEntryEach, State.beginNext_deadlines]
  | expired e rest g => exact (List.pairwise_cons.1 (by rwa [State.oneEntryEach, g] at h)).2
  | wiped _ => exact List.Pairwise.sublist List.filter_sublist h
  | power x _ => exact State.oneEntryEach_reset
  | _ => exact h

/-- Settles O53: the queue of waiting commands holds no deadline, and every change keeps the entries apart. -/
theorem everyStepKeepsOneEntryEach : Obligations.EveryStepKeepsOneEntryEach :=
  fun s _ h e => step_keeps s (P := State.oneEntryEach) (fun _ _ h => h) (fun _ _ => Change.oneEntryEach) e h

/-! ### The policy table (R79 to R82) -/

theorem Change.policyGood (c : Change A s t) (h : s.policyGood) : t.policyGood := by
  cases c with
  | edited e => rwa [State.policyGood, e.untouched.policy, e.untouched.defaultPolicy]
  | start => rwa [State.policyGood, State.beginNext_policy, State.beginNext_defaultPolicy]
  | table l _ g => exact ⟨g h.1, h.2⟩
  | default p _ g => exact ⟨h.1, g⟩
  | storeReset _ => exact State.policyGood_reset
  | power x _ => exact State.policyGood_reset
  | _ => exact h

/-- Settles O54: a table is replaced by a good one, a default policy by one in range, and a reset empties the table. -/
theorem everyStepKeepsThePolicyTable : Obligations.EveryStepKeepsThePolicyTable :=
  fun s _ h e => step_keeps s (P := State.policyGood) (fun _ _ h => h) (fun _ _ => Change.policyGood) e h

/-! ### The supplies (R152) -/

theorem Change.suppliesGood (c : Change A s t) (h : s.suppliesGood) : t.suppliesGood := by
  cases c with
  | edited e => exact fun st => e.lockedAtThree (h st)
  | start => exact fun st => by rw [State.beginNext_supply]; exact h st
  | clock x b v r n _ g =>
    intro st
    obtain ⟨state, trips⟩ := g st
    show (r[st.val].state = .locked ↔ r[st.val].tripCount = 3) ∧ r[st.val].tripCount ≤ 3
    rw [state, trips]
    exact h st
  | restored st r _ unlocked zero =>
    intro y
    rw [State.supply_setSupply_eq]
    split
    · simp [unlocked, zero]
    · exact h y
  | power x _ => exact State.suppliesGood_reset
  | _ => exact h

/-- Settles O55: an edit of a supply keeps the rule of R152, and SUPPLY-RESTORE sets state and count together. -/
theorem everyStepKeepsLockedAtThreeTrips : Obligations.EveryStepKeepsLockedAtThreeTrips :=
  fun s _ h e => step_keeps s (P := State.suppliesGood) (fun _ _ h => h) (fun _ _ => Change.suppliesGood) e h

/-! ### The outbound queue (R186, R189) -/

theorem State.repliesAwaited_eq (s : State) :
    s.repliesAwaited = s.pendingDirect.isSome.toNat + (s.flight.any fun f => f.direct.isSome).toNat := by
  unfold State.repliesAwaited
  cases s.pendingDirect.isSome <;> cases s.flight.any (fun f => f.direct.isSome) <;> rfl

theorem State.repliesAwaited_beginNext (s : State) : s.beginNext.repliesAwaited = s.repliesAwaited := by
  rw [s.beginNext_eq]; rfl

theorem Edited.repliesAwaited {B : Scope} (e : Edited B s t) : t.repliesAwaited = s.repliesAwaited := by
  rw [State.repliesAwaited, e.untouched.pendingDirect, e.untouched.flight, State.repliesAwaited]

/-- A reply comes where one is free, or takes the place of the one that a direct exchange owed. -/
theorem Change.repliesWithinEight (c : Change A s t) (h : s.repliesWithinEight) : t.repliesWithinEight := by
  cases c with
  | edited e => rwa [State.repliesWithinEight, e.repliesStanding, e.repliesAwaited]
  | start => exact (Nat.add_le_add s.repliesStanding_beginNext s.repliesAwaited_beginNext.le).trans h
  | reply i g room =>
    have : (s.append i).repliesStanding + s.repliesAwaited ≤ 8 := by
      rw [State.repliesStanding_append, if_pos g]
      omega
    exact this
  | direct x room =>
    have : ({ s with pendingDirect := some x } : State).repliesAwaited ≤ s.repliesAwaited + 1 := by
      simp only [State.repliesAwaited_eq, Option.isSome_some, Bool.toNat_true]
      omega
    exact (Nat.add_le_add_left this s.repliesStanding).trans room
  | withdrawn i g owed =>
    have : ({ s with pendingDirect := none }.append i).repliesStanding = s.repliesStanding + 1 :=
      (State.repliesStanding_append _ i).trans (by rw [if_pos g]; rfl)
    have : ({ s with pendingDirect := none }.append i).repliesAwaited + 1 = s.repliesAwaited := by
      simp [State.repliesAwaited_eq, owed, Nat.add_comm]
    rw [State.repliesWithinEight] at h ⊢
    omega
  | diag f owed free =>
    have : ({ s with pendingDirect := none, flight := some f } : State).repliesAwaited ≤ s.repliesAwaited := by
      simpa [State.repliesAwaited_eq, owed, free] using Bool.toNat_le f.direct.isSome
    exact (Nat.add_le_add_left this s.repliesStanding).trans h
  | carried f free g =>
    have : ({ s with flight := some f } : State).repliesAwaited = s.repliesAwaited := by
      simp [State.repliesAwaited_eq, free, g]
    exact (Nat.add_le_add_left this.le s.repliesStanding).trans h
  | ended =>
    have : ({ s with flight := none } : State).repliesAwaited ≤ s.repliesAwaited := by
      simp [State.repliesAwaited_eq]
    exact (Nat.add_le_add_left this s.repliesStanding).trans h
  | answered i f g e owed =>
    have : ({ s with flight := none }.append i).repliesStanding = s.repliesStanding + 1 :=
      (State.repliesStanding_append _ i).trans (by rw [if_pos g]; rfl)
    have : ({ s with flight := none }.append i).repliesAwaited + 1 = s.repliesAwaited := by
      simp [State.repliesAwaited_eq, e, owed]
    rw [State.repliesWithinEight] at h ⊢
    omega
  | wiped _ =>
    have : s.wiped.repliesStanding = 0 := rfl
    have : s.wiped.repliesAwaited = s.repliesAwaited := rfl
    rw [State.repliesWithinEight] at h ⊢
    omega
  | power x _ => exact State.repliesWithinEight_reset
  | _ => exact h

theorem Change.coalescedQueue (c : Change A s t) (h : s.coalescedQueue) : t.coalescedQueue := by
  cases c with
  | edited e => exact e.coalescedQueue h
  | start => exact s.coalescedQueue_beginNext h
  | reply i g _ => exact coalesced_append i _ (Item.key_of_isReply g) h
  | withdrawn i g _ => exact coalesced_append i _ (Item.key_of_isReply g) h
  | answered i f g _ _ => exact coalesced_append i _ (Item.key_of_isReply g) h
  | wiped _ => exact .nil
  | power x _ => exact State.coalescedQueue_reset
  | _ => exact h

/-- Settles O56. -/
theorem everyStepKeepsTheOutboundQueue : Obligations.EveryStepKeepsTheOutboundQueue :=
  fun s _ within coalesced e =>
    ⟨step_keeps s (P := State.repliesWithinEight) (fun _ _ h => h) (fun _ _ => Change.repliesWithinEight) e within,
      step_keeps s (P := State.coalescedQueue) (fun _ _ h => h) (fun _ _ => Change.coalescedQueue) e coalesced⟩

/-! ### The settings (R116, R174) -/

theorem State.device_capRestarts (s : State) (limit : Nat) (p : Port) :
    (s.capRestarts limit).device p = { s.device p with restartCount := min (s.device p).restartCount limit } := by
  simp [State.capRestarts, State.device]

theorem Device.reset_restartCount_le (d : Device) : d.reset.restartCount ≤ d.restartCount := by
  unfold Device.reset
  split
  · exact Nat.le_refl _
  · exact Nat.zero_le _

theorem State.device_wiped (s : State) (p : Port) : s.wiped.device p = (s.device p).reset := by
  simp [State.wiped, State.device]

/-- Settings are replaced by ones in range, and a restart count is capped as the limit moves. -/
theorem Change.settingsGood (c : Change A s t) (h : s.settingsGood) : t.settingsGood := by
  obtain ⟨inRange, within⟩ := h
  cases c with
  | edited e => exact ⟨by rwa [e.untouched.settings], e.restartCounts within⟩
  | start =>
    refine ⟨by rwa [State.beginNext_settings], fun p => ?_⟩
    rw [State.beginNext_device, State.beginNext_settings]
    exact within p
  | settings x _ g =>
    refine ⟨g inRange, fun p => ?_⟩
    rw [State.storeSettings, State.device_capRestarts]
    exact Nat.min_le_right _ _
  | wiped _ =>
    refine ⟨inRange, fun p => ?_⟩
    rw [State.device_wiped]
    exact (Device.reset_restartCount_le _).trans (within p)
  | storeReset _ =>
    refine ⟨State.settingsGood_reset.1, fun p => ?_⟩
    rw [State.device_capRestarts]
    exact Nat.min_le_right _ _
  | power x _ => exact State.settingsGood_reset
  | _ => exact ⟨inRange, within⟩

/-- Settles O57. -/
theorem everyStepKeepsTheSettings : Obligations.EveryStepKeepsTheSettings :=
  fun s _ h e => step_keeps s (P := State.settingsGood) (fun _ _ h => h) (fun _ _ => Change.settingsGood) e h

end Sys2Proof.Machine
end

section
/-! PROOFS. What a command leaves: a command is a chain of changes within its rights (`exec_changed`), so what a change
can only do with a right stays as it is under a command without it. -/

namespace Sys2Proof.Machine

variable {A : Rights} {s t u : State}

/-! ### LOCKED (R152) -/

theorem Change.locked (hr : ¬A.restore) (hp : ¬A.power) (c : Change A s t) {st : Station}
    (h : (s.supply st).state = .locked) : (t.supply st).state = .locked := by
  cases c with
  | edited e => exact e.locked h
  | start => rwa [State.beginNext_supply]
  | clock x b v r n _ g => exact (g st).1.trans h
  | restored y r a => exact absurd a hr
  | power x a => exact absurd a hp
  | _ => exact h

theorem Changed.locked (hr : ¬A.restore) (hp : ¬A.power) (c : Changed A s t) {st : Station} :
    (s.supply st).state = .locked → (t.supply st).state = .locked :=
  c.kept (P := fun s => (s.supply st).state = .locked) fun _ _ c h => c.locked hr hp h

/-- Settles O59: of the rows that may restore a supply or power the part on, none is left. -/
theorem lockedIsLeftOnlyByRestoreOrPowerOn : Obligations.LockedIsLeftOnlyByRestoreOrPowerOn := by
  intro i s t st h e notRestore notPower notInput
  have rights : ¬(rightsOf s i).restore ∧ ¬(rightsOf s i).power := by
    cases i with
    | supplyRestore q l => exact absurd rfl (notRestore q l)
    | powerOnReset x => exact absurd rfl (notPower x)
    | resetInput x => exact absurd rfl (notInput x)
    | _ => exact ⟨id, id⟩
  exact (exec_changed s i e).locked rights.1 rights.2 h

/-! ### The retained store (R90, R176) -/

theorem SameStore.trans (h : SameStore s t) (g : SameStore t u) : SameStore s u := by
  obtain ⟨a, b, c, d, e, f⟩ := h
  obtain ⟨a', b', c', d', e', f'⟩ := g
  exact ⟨a'.trans a, b'.trans b, c'.trans c, d'.trans d, e'.trans e, f'.trans f⟩

theorem Untouched.sameStore (h : Untouched s t) : SameStore s t :=
  ⟨h.settings, h.idleTexts, h.closedText, h.policy, h.defaultPolicy, h.businessMonth⟩

theorem State.sameStore_beginNext (s : State) : SameStore s s.beginNext := by
  rw [s.beginNext_eq]
  exact ⟨rfl, rfl, rfl, rfl, rfl, rfl⟩

theorem Change.sameStore (hs : ¬A.store) (hp : ¬A.power) (c : Change A s t) : SameStore s t := by
  cases c with
  | edited e => exact e.untouched.sameStore
  | start => exact s.sameStore_beginNext
  | table l a => exact absurd a hs
  | default p a => exact absurd a hs
  | month m a => exact absurd a hs
  | texts i c a => exact absurd a hs
  | settings x a => exact absurd a hs
  | storeReset a => exact absurd a hs
  | power x a => exact absurd a hp
  | _ => exact ⟨rfl, rfl, rfl, rfl, rfl, rfl⟩

theorem Changed.sameStore (hs : ¬A.store) (hp : ¬A.power) (c : Changed A s t) : SameStore s t :=
  c.kept (P := SameStore s) (fun _ _ c h => h.trans (c.sameStore hs hp)) ⟨rfl, rfl, rfl, rfl, rfl, rfl⟩

/-- Settles O60: the rows left may neither change the store nor power the part on. -/
theorem storeChangesOnlyByItsCommands : Obligations.StoreChangesOnlyByItsCommands := by
  intro i s t e allowed
  have rights : ¬(rightsOf s i).store ∧ ¬(rightsOf s i).power := by
    cases i with
    | policyLoad | policyDrop | defaultPolicy | setDate | settings | idleText | powerOnReset | resetInput =>
      exact allowed.elim
    | frameSent => exact ⟨allowed, id⟩
    | _ => exact ⟨id, id⟩
  exact (exec_changed s i e).sameStore rights.1 rights.2

/-! ### The waiting commands and the clock (R91) -/

theorem Change.pending (c : Change A s t) : t.pending = s.pending := by
  cases c with
  | edited e => exact e.untouched.pending
  | start => rw [s.beginNext_eq]
  | _ => rfl

theorem Changed.pending (c : Changed A s t) : t.pending = s.pending :=
  c.kept (P := fun t => t.pending = s.pending) (fun _ _ c h => c.pending.trans h) rfl

theorem Change.tick (hc : ¬A.clock) (hp : ¬A.power) (c : Change A s t) : t.tick = s.tick := by
  cases c with
  | edited e => exact e.untouched.tick
  | start => exact s.beginNext_tick
  | clock x b v r n a => exact absurd a hc
  | power x a => exact absurd a hp
  | _ => rfl

theorem Changed.tick (hc : ¬A.clock) (hp : ¬A.power) (c : Changed A s t) : t.tick = s.tick :=
  c.kept (P := fun t => t.tick = s.tick) (fun _ _ c h => (c.tick hc hp).trans h) rfl

/-- Every row is a command row or an event row, and both answer a next state. -/
theorem exec_next (i : Instr) (s : State) : ∃ t, exec i s = .next t := by
  cases i with
  | unknownCommandKind k q l =>
    unfold exec execUnknownCommandKind
    dsimp only
    split
    · exact ⟨_, rfl⟩
    · exact ⟨_, rfl⟩
  | _ => exact ⟨_, rfl⟩

/-- Settles O2: no change touches the waiting commands, and a row that takes a frame may not move the clock. -/
theorem everyCommandCompletes : Obligations.EveryCommandCompletes := by
  intro i s
  obtain ⟨t, e⟩ := exec_next i s
  refine ⟨t, e, (exec_changed s i e).pending, fun h => ?_⟩
  have rights : ¬(rightsOf s i).clock ∧ ¬(rightsOf s i).power := by
    cases i with
    | frameTimeout | supplySample | trialPassed | cooled | supplyCleanPeriod | stepDeadline | warnDeadline | keyDeadline
    | restartWindow | deviceCleanPeriod | supervisionExpired | settled | startCap | busArbitrate | powerOnReset
    | resetInput => exact nomatch h
    | _ => exact ⟨id, id⟩
  exact (exec_changed s i e).tick rights.1 rights.2

end Sys2Proof.Machine
end

section
/-! PROOFS. Commands that are taken now. The payload's form is judged first; an owner that does nothing but answer leaves
the state that `State.answeredWith` names (R186, R187). -/

namespace Sys2Proof.Machine

variable (s : State) (q : Byte) (payload : List Byte)

/-! ### A command and its fields (R187) -/

theorem commandRow_of_some {α : Type} (f : Frame) {x : Option α} {a : α} (h : x = some a) (owner : State → α → State) :
    commandRow f (fun s => s.withFields f x (owner s)) s = commandRow f (fun s => owner s a) s := by rw [h]; rfl

theorem exec_openSession {x : OpenRequest} (h : openRequestOf payload = some x) : exec (.openSession q payload) s =
    commandRow ⟨0x01, q, payload⟩ (fun s => s.openSession ⟨0x01, q, payload⟩ x) s := commandRow_of_some s _ h _

theorem exec_cancelSession {x : Byte × Nat} (h : cancelRequestOf payload = some x) : exec (.cancelSession q payload) s =
    commandRow ⟨0x02, q, payload⟩ (fun s => s.cancelSession ⟨0x02, q, payload⟩ x) s := commandRow_of_some s _ h _

theorem exec_extendStep {x : Byte × Nat × Nat} (h : extendRequestOf payload = some x) : exec (.extendStep q payload) s =
    commandRow ⟨0x03, q, payload⟩ (fun s => s.extendStep ⟨0x03, q, payload⟩ x) s := commandRow_of_some s _ h _

theorem exec_policyLoad {x : LoadRequest} (h : loadRequestOf payload = some x) : exec (.policyLoad q payload) s =
    commandRow ⟨0x04, q, payload⟩ (fun s => s.policyLoad ⟨0x04, q, payload⟩ x) s := commandRow_of_some s _ h _

theorem exec_policyDrop {x : Digits} (h : dropRequestOf payload = some x) : exec (.policyDrop q payload) s =
    commandRow ⟨0x05, q, payload⟩ (fun s => s.policyDrop ⟨0x05, q, payload⟩ x) s := commandRow_of_some s _ h _

theorem exec_policyList {x : Byte} (h : oneByteOf payload = some x) : exec (.policyList q payload) s =
    commandRow ⟨0x06, q, payload⟩ (fun s => s.policyList ⟨0x06, q, payload⟩ x) s := commandRow_of_some s _ h _

theorem exec_defaultPolicy {x : Policy} (h : defaultRequestOf payload = some x) : exec (.defaultPolicy q payload) s =
    commandRow ⟨0x07, q, payload⟩ (fun s => s.replaceDefault ⟨0x07, q, payload⟩ x) s := commandRow_of_some s _ h _

theorem exec_setDate {x : Byte × Byte} (h : twoBytesOf payload = some x) : exec (.setDate q payload) s =
    commandRow ⟨0x08, q, payload⟩ (fun s => s.setDate ⟨0x08, q, payload⟩ x) s := commandRow_of_some s _ h _

theorem exec_deviceInfo {x : Byte} (h : oneByteOf payload = some x) : exec (.deviceInfo q payload) s =
    commandRow ⟨0x09, q, payload⟩ (fun s => s.deviceInfo ⟨0x09, q, payload⟩ x) s := commandRow_of_some s _ h _

theorem exec_directExchange {x : Byte × List Byte} (h : directRequestOf payload = some x) :
    exec (.directExchange q payload) s =
      commandRow ⟨0x0B, q, payload⟩ (fun s => s.directExchange ⟨0x0B, q, payload⟩ x) s := commandRow_of_some s _ h _

theorem exec_supplyOff {x : Byte} (h : oneByteOf payload = some x) : exec (.supplyOff q payload) s =
    commandRow ⟨0x0C, q, payload⟩ (fun s => s.supplyOff ⟨0x0C, q, payload⟩ x) s := commandRow_of_some s _ h _

theorem exec_supplyRestore {x : Byte} (h : oneByteOf payload = some x) : exec (.supplyRestore q payload) s =
    commandRow ⟨0x0D, q, payload⟩ (fun s => s.supplyRestore ⟨0x0D, q, payload⟩ x) s := commandRow_of_some s _ h _

theorem exec_dozeCounter {x : Vector WakeFlags 8} (h : wakeMaskOf payload = some x) : exec (.dozeCounter q payload) s =
    commandRow ⟨0x0E, q, payload⟩ (fun s => s.dozeCounter ⟨0x0E, q, payload⟩ x) s := commandRow_of_some s _ h _

theorem exec_openCounter : exec (.openCounter q []) s =
    commandRow ⟨0x0F, q, []⟩ (fun s => s.openCounter ⟨0x0F, q, []⟩) s := rfl

theorem exec_closeCounter : exec (.closeCounter q []) s =
    commandRow ⟨0x10, q, []⟩ (fun s => s.closeCounter ⟨0x10, q, []⟩) s := rfl

theorem exec_settings {x : List (Byte × Nat)} (h : settingsRequestOf payload = some x) : exec (.settings q payload) s =
    commandRow ⟨0x11, q, payload⟩ (fun s => s.changeSettings ⟨0x11, q, payload⟩ x) s := commandRow_of_some s _ h _

theorem exec_idleText {x : Byte × Text} (h : idleTextRequestOf payload = some x) : exec (.idleText q payload) s =
    commandRow ⟨0x12, q, payload⟩ (fun s => s.changeText ⟨0x12, q, payload⟩ x) s := commandRow_of_some s _ h _

theorem exec_status : exec (.status q []) s =
    commandRow ⟨0x13, q, []⟩ (fun s => s.answer ⟨0x13, q, []⟩ .done false (statusData s)) s := rfl

theorem exec_resetHub {x : ResetKind} (h : resetKindOf payload = some x) : exec (.resetHub q payload) s =
    commandRow ⟨0x14, q, payload⟩ (fun s => s.askHubReset ⟨0x14, q, payload⟩ x) s := commandRow_of_some s _ h _

variable {s q payload}

/-- A taken command whose owner does nothing but answer. -/
theorem exec_of_answer {i : Instr} {f : Frame} {owner : State → State} (hi : exec i s = commandRow f owner s)
    (ht : s.takesNow f) {o : ReplyOutcome} {a : Bool} {data : List Byte}
    (g : owner s.takeHead = s.takeHead.answer f o a data) {k : Byte} (hk : f.kind ||| 0x80 = k := by simp) :
    exec i s = .next (s.answeredWith (.reply f.sequence k o a data)) := by
  rw [hi, commandRow_answer s f owner ht o a data g, hk]

/-- A taken command whose owner leaves the counter's state. -/
theorem exec_of_counter {i : Instr} {f : Frame} {owner : State → State} (hi : exec i s = commandRow f owner s)
    (ht : s.takesNow f) {t : State} (g : owner s.takeHead = t) (hc : t.counter = s.counter) :
    exec i s = .next t.beginNext := by
  rw [hi, commandRow_same s f owner ht (by rw [g, hc]), g]

/-- A malformed payload is answered before any owner sees it (R187). -/
theorem commandRow_of_none {α : Type} {f : Frame} {x : Option α} (h : x = none) (owner : State → α → State)
    (ht : s.takesNow f) {k : Byte} (hk : f.kind ||| 0x80 = k := by simp) :
    commandRow f (fun s => s.withFields f x (owner s)) s =
      .next (s.answeredWith (.reply f.sequence k .badRequest false [])) := by
  rw [commandRow_answer s f _ ht .badRequest false [] (by rw [h]; rfl), hk]

theorem State.answer_eq (s : State) (f : Frame) (o : ReplyOutcome) (a : Bool) (data : List Byte) {k : Byte}
    (hk : f.kind ||| 0x80 = k := by simp) : s.answer f o a data = s.append (.reply f.sequence k o a data) := by
  rw [← hk]; rfl

/-- The kind byte of a reply, as section 11.2 says it. -/
theorem replyKind_eq (k : Byte) : k ||| 0x80 = BitVec.ofNat 8 (0x80 + k.toNat % 128) := by
  revert k
  decide

/-! ### STATUS, DEVICE-INFO and POLICY-LIST (R85, R129, R177) -/

theorem State.deviceInfo_of_some (f : Frame) {a : Byte} {p : Port} (h : portOfByte a = some p) :
    s.deviceInfo f a = s.answer f .done false (deviceInfoData s p) := by rw [State.deviceInfo, h]

theorem State.deviceInfo_of_none (f : Frame) {a : Byte} (h : portOfByte a = none) :
    s.deviceInfo f a = s.answer f .badRequest false [] := by rw [State.deviceInfo, h]; rfl

theorem deviceInfoData_takeHead (s : State) (p : Port) : deviceInfoData s.takeHead p = deviceInfoData s p := by
  simp [deviceInfoData]

/-- Settles O4: each of the three owners answers. -/
theorem reportsOnlyReply : Obligations.ReportsOnlyReply := by
  refine ⟨fun s q ht => ?_, fun s q a p ht hp => ?_, fun s q a ht hp => ?_, fun s q start ht => ?_⟩
  · exact exec_of_answer (exec_status s q) ht rfl
  · rw [← deviceInfoData_takeHead]
    exact exec_of_answer (exec_deviceInfo s q _ rfl) ht (State.deviceInfo_of_some _ hp)
  · exact exec_of_answer (exec_deviceInfo s q _ rfl) ht (State.deviceInfo_of_none _ hp)
  · have data : listData s.takeHead.policy s.takeHead.defaultPolicy start.toNat =
        listData s.policy s.defaultPolicy start.toNat := by rw [s.takeHead_policy, s.takeHead_defaultPolicy]
    exact exec_of_answer (exec_policyList s q [start] rfl) ht (congrArg (s.takeHead.answer _ .done false) data)

/-! ### DIRECT-EXCHANGE (R145) -/

section DirectExchange

variable (s) (f : Frame) {a : Byte} {l : List Byte} {p : Port}

theorem State.directExchange_of_none (h : portOfByte a = none) :
    s.directExchange f (a, l) = s.answer f .badRequest false [] := by rw [State.directExchange, h]; rfl

theorem State.directExchange_of_long (h : portOfByte a = some p) (hl : 40 < l.length) :
    s.directExchange f (a, l) = s.answer f .badRequest false [] := by
  rw [State.directExchange, h]
  exact if_pos hl

theorem State.directExchange_of_refusal (h : portOfByte a = some p) (hl : l.length ≤ 40) {o : ReplyOutcome}
    (ho : (s.device p).state.directRefusal = some o) : s.directExchange f (a, l) = s.answer f o false [] := by
  rw [State.directExchange, h]
  simp only [if_neg (Nat.not_lt.2 hl), ho]
  rfl

theorem State.directExchange_of_accepted (h : portOfByte a = some p) (hl : l.length ≤ 40)
    (ho : (s.device p).state.directRefusal = none) :
    s.directExchange f (a, l) = { s with pendingDirect := some ⟨p, l, f.sequence⟩ } := by
  rw [State.directExchange, h]
  simp only [if_neg (Nat.not_lt.2 hl), ho]

end DirectExchange

/-- Settles O14: the checks of R145 in their order. -/
theorem directExchangeWaitsForTheBus : Obligations.DirectExchangeWaitsForTheBus := by
  intro s q a payload l ht hx
  have row := exec_directExchange s q payload hx
  have refused : ∀ {p : Port} {o : ReplyOutcome}, portOfByte a = some p → l.length ≤ 40 →
      (s.device p).state.directRefusal = some o →
      exec (.directExchange q payload) s = .next (s.answeredWith (.reply q 0x8B o false [])) := fun hp hl ho =>
    exec_of_answer row ht (State.directExchange_of_refusal _ _ hp hl (by rwa [s.takeHead_device]))
  refine ⟨fun hp => exec_of_answer row ht (State.directExchange_of_none _ _ hp), fun p hp =>
    ⟨fun hl => exec_of_answer row ht (State.directExchange_of_long _ _ hp hl), fun hl h => refused hp hl ?_,
      fun hl h => refused hp hl (by rw [h]; rfl), fun hl h => ?_⟩⟩
  · rcases h with h | h | h <;> rw [h] <;> rfl
  · refine exec_of_counter row ht (State.directExchange_of_accepted _ _ hp hl ?_) s.takeHead_counter
    rw [s.takeHead_device]
    rcases h with h | h | h | h <;> rw [h] <;> rfl

/-! ### RESET-HUB, an unknown kind, and payloads beyond every form (R178, R183, R187) -/

theorem withinForm_of_length {α : Type} {l : List Byte} (h : l.length = 241) (x : Option α) : withinForm l x = none :=
  if_neg (by rw [h]; decide)

theorem exec_unknownCommandKind {k : Byte} (h : namesCommand k = false) : exec (.unknownCommandKind k q payload) s =
    commandRow ⟨k, q, payload⟩ (fun s => s.answer ⟨k, q, payload⟩ .badRequest false []) s := by
  refine if_neg ?_
  simpa [namesCommand] using h

theorem wakeFlagsOf_length {l : List Byte} {x : List WakeFlags} (h : wakeFlagsOf l = some x) : l.length = 4 * x.length :=
  by
  fun_induction wakeFlagsOf l generalizing x with
  | case1 => cases h; rfl
  | case2 =>
    rename_i ih
    cases h
    simp only [List.length_cons, ih (by assumption)]
    omega
  | case3 => cases h
  | case4 => cases h

section Long

variable {l : List Byte} (h : l.length = 241)

include h

theorem cancelRequestOf_of_long : cancelRequestOf l = none := by
  unfold cancelRequestOf
  split
  · simp at h
  · rfl

theorem extendRequestOf_of_long : extendRequestOf l = none := by
  unfold extendRequestOf
  split
  · simp at h
  · rfl

theorem loadRequestOf_of_long : loadRequestOf l = none := by
  unfold loadRequestOf
  split
  · split
    · exact if_neg (by simp only [List.length_cons] at h; omega)
    · rfl
  · rfl

theorem defaultRequestOf_of_long : defaultRequestOf l = none := if_neg (by omega)

theorem oneByteOf_of_long : oneByteOf l = none := by
  unfold oneByteOf
  split
  · simp at h
  · rfl

theorem twoBytesOf_of_long : twoBytesOf l = none := by
  unfold twoBytesOf
  split
  · simp at h
  · rfl

theorem noBytes_of_long : noBytes l = none := by
  unfold noBytes
  split
  · simp at h
  · rfl

theorem wakeMaskOf_of_long : wakeMaskOf l = none := by
  unfold wakeMaskOf
  split
  · rename_i x hx
    exact dif_neg (by have := wakeFlagsOf_length hx; omega)
  · rfl

theorem resetKindOf_of_long : resetKindOf l = none := by
  unfold resetKindOf
  split
  · simp at h
  · rfl

end Long

/-- A payload of 241 bytes has no form (R183, log 31). -/
theorem exec_of_long {i : Instr} {f : Frame} (hf : i.frame = some f) (hw : i.wellFormed = true)
    (hl : f.payload.length = 241) (ht : s.takesNow f) :
    exec i s = .next (s.answeredWith (.reply f.sequence (f.kind ||| 0x80) .badRequest false [])) := by
  cases i with
  | openSession | policyDrop | directExchange | settings | idleText =>
    cases hf
    exact commandRow_of_none (withinForm_of_length hl _) _ ht
  | cancelSession => cases hf; exact commandRow_of_none (cancelRequestOf_of_long hl) _ ht
  | extendStep => cases hf; exact commandRow_of_none (extendRequestOf_of_long hl) _ ht
  | policyLoad => cases hf; exact commandRow_of_none (loadRequestOf_of_long hl) _ ht
  | defaultPolicy => cases hf; exact commandRow_of_none (defaultRequestOf_of_long hl) _ ht
  | setDate => cases hf; exact commandRow_of_none (twoBytesOf_of_long hl) _ ht
  | policyList | deviceInfo | deviceRelease | supplyOff | supplyRestore =>
    cases hf
    exact commandRow_of_none (oneByteOf_of_long hl) _ ht
  | dozeCounter => cases hf; exact commandRow_of_none (wakeMaskOf_of_long hl) _ ht
  | openCounter q l =>
    cases hf
    exact commandRow_of_none (noBytes_of_long hl) (fun s _ => s.openCounter ⟨0x0F, q, l⟩) ht
  | closeCounter q l =>
    cases hf
    exact commandRow_of_none (noBytes_of_long hl) (fun s _ => s.closeCounter ⟨0x10, q, l⟩) ht
  | status q l =>
    cases hf
    exact commandRow_of_none (noBytes_of_long hl) (fun s _ => s.answer ⟨0x13, q, l⟩ .done false (statusData s)) ht
  | resetHub => cases hf; exact commandRow_of_none (resetKindOf_of_long hl) _ ht
  | unknownCommandKind k q l =>
    cases hf
    have hn : namesCommand k = false := by
      simpa using (Bool.and_eq_true_iff.1 hw).1
    exact exec_of_answer (exec_unknownCommandKind hn) ht rfl
  | _ => cases hf

/-- Settles O22. -/
theorem resetIsRecordedAndUnknownKindsAreRefused : Obligations.ResetIsRecordedAndUnknownKindsAreRefused := by
  refine ⟨fun s q b k ht hk => ?_, fun s q b ht h1 h2 => ?_, fun s k q l ht hn => ?_, fun s i f hf hw hl ht => ?_⟩
  · exact exec_of_counter (exec_resetHub s q _ hk) ht (State.answer_eq _ _ _ _ _) s.takeHead_counter
  · have malformed : resetKindOf [b] = none := by rw [resetKindOf, if_neg h1, if_neg h2]
    exact commandRow_of_none malformed _ ht
  · rw [← replyKind_eq]
    exact exec_of_answer (exec_unknownCommandKind hn) ht rfl
  · rw [← replyKind_eq]
    exact exec_of_long hf hw hl ht

end Sys2Proof.Machine
end

section
/-! PROOFS. The card policy table and the settings by command (R82 to R88, R174). -/

namespace Sys2Proof.Machine

variable {s : State} {q : Byte} {payload : List Byte}

/-! ### The lookup (R87) -/

theorem longestMatch_eq_none {account : Digits} {l : List PolicyEntry} (h : ∀ e ∈ l, ¬e.key <+: account) :
    longestMatch account l = none := by
  induction l with
  | nil => rfl
  | cons y ys ih =>
    have hy : y.key.isPrefixOf account = false := by
      rw [← Bool.not_eq_true, List.isPrefixOf_iff_prefix]
      exact h y (by simp)
    simp [longestMatch, ih fun e he => h e (by simp [he]), hy]

theorem longestMatch_isSome {account : Digits} {l : List PolicyEntry} {e : PolicyEntry} (he : e ∈ l)
    (h : e.key <+: account) : ∃ m, longestMatch account l = some m := by
  induction l with
  | nil => cases he
  | cons y ys ih =>
    rw [longestMatch]
    cases g : longestMatch account ys with
    | some w =>
      dsimp only
      split
      · exact ⟨_, rfl⟩
      · exact ⟨_, rfl⟩
    | none =>
      rcases List.mem_cons.1 he with rfl | he
      · exact ⟨e, if_pos (List.isPrefixOf_iff_prefix.2 h)⟩
      · obtain ⟨m, hm⟩ := ih he
        rw [g] at hm
        cases hm

/-- In a table in the order of R81 an entry is known by its prefix. -/
theorem eq_of_key_eq {l : List PolicyEntry} (h : l.Pairwise fun a b => keyBefore a.key b.key = true)
    {a b : PolicyEntry} (ha : a ∈ l) (hb : b ∈ l) (e : a.key = b.key) : a = b := by
  have distinct : (l.map (·.key)).Nodup := by
    refine List.pairwise_map.2 (h.imp fun {x y : PolicyEntry} lt (same : x.key = y.key) => ?_)
    rw [same, keyBefore_irrefl] at lt
    cases lt
  exact List.inj_on_of_nodup_map distinct ha hb e

theorem List.IsPrefix.eq_of_same_length {α : Type} {a b l : List α} (ha : a <+: l) (hb : b <+: l)
    (h : a.length = b.length) : a = b :=
  (List.prefix_of_prefix_length_le ha hb h.le).eq_of_length h

/-- Settles O12: two matches of one length would be one prefix, which the table holds once. -/
theorem lookupYieldsTheLongestPrefix : Obligations.LookupYieldsTheLongestPrefix := by
  intro table default account ordered
  refine ⟨fun none => ?_, fun ⟨e, he, begins⟩ => ?_⟩
  · rw [lookupPolicy, longestMatch_eq_none none]
    rfl
  · obtain ⟨m, hm⟩ := longestMatch_isSome he begins
    obtain ⟨mem, isPrefix, longest⟩ := longestMatch_some account table m hm
    have yields : lookupPolicy table default account = m := by rw [lookupPolicy, hm]; rfl
    rw [yields]
    refine ⟨mem, isPrefix, fun x hx px ne => lt_of_le_of_ne (longest x hx px) fun same => ne ?_⟩
    exact eq_of_key_eq ordered hx mem (List.IsPrefix.eq_of_same_length px isPrefix same)

/-! ### POLICY-LOAD (R83) -/

theorem indexOfKey_getElem? {table : List PolicyEntry} {e : PolicyEntry} (he : e ∈ table)
    (only : ∀ y ∈ table, y.key = e.key → y = e) : table[indexOfKey e.key table]? = some e := by
  have hlt : indexOfKey e.key table < table.length :=
    List.findIdx_lt_length_of_exists ⟨e, he, by simp⟩
  rw [List.getElem?_eq_getElem hlt]
  have found : (table[indexOfKey e.key table].key == e.key) = true :=
    List.findIdx_getElem (p := fun x : PolicyEntry => x.key == e.key)
  rw [only _ (List.getElem_mem hlt) (by simpa using found)]

/-- What a loaded table holds: the new entry, and the old ones with other prefixes (R83). -/
theorem loadEntry_spec {e : PolicyEntry} {table : List PolicyEntry}
    (h : holdsKey e.key table = true ∨ table.length < 32) :
    ∃ l, loadEntry e table = some (l, holdsKey e.key table)
      ∧ l.length = (if holdsKey e.key table then table.length else table.length + 1)
      ∧ ∀ y, y ∈ l ↔ y = e ∨ (y ∈ table ∧ y.key ≠ e.key) := by
  unfold loadEntry
  cases held : holdsKey e.key table with
  | true =>
    refine ⟨_, rfl, by simp [replaceEntry], fun y => ⟨mem_replaceEntry e y table, ?_⟩⟩
    obtain ⟨x, hx, same⟩ := (holdsKey_iff _ _).1 held
    rintro (rfl | ⟨hy, other⟩)
    · exact List.mem_map.2 ⟨x, hx, if_pos same⟩
    · exact List.mem_map.2 ⟨y, hy, if_neg other⟩
  | false =>
    have room : ¬Config.policyCapacity ≤ table.length := by
      rw [held] at h
      simpa [Config.policyCapacity] using h
    have others : ∀ y ∈ table, y.key ≠ e.key := fun y hy same => by
      rw [(holdsKey_iff _ _).2 ⟨y, hy, same⟩] at held
      cases held
    refine ⟨insertPolicy e table, by simp [room], length_insertPolicy e table, fun y => ?_⟩
    rw [mem_insertPolicy]
    exact or_congr_right ⟨fun hy => ⟨hy, others y hy⟩, And.left⟩

theorem loadEntry_full {e : PolicyEntry} {table : List PolicyEntry} (held : holdsKey e.key table = false)
    (full : 32 ≤ table.length) : loadEntry e table = none := by
  rw [loadEntry, held]
  exact if_pos full

section PolicyLoad

variable (s) (f : Frame) {x : LoadRequest} (h1 : 1 ≤ x.count) (h10 : x.count ≤ 10)
  (good : (normalisePolicy x.policy).value.rangesGood = true)

include h1 h10 good

theorem State.policyLoad_of_full (h : loadEntry ⟨x.key, (normalisePolicy x.policy).value⟩ s.policy = none) :
    s.policyLoad f x = s.answer f .tableFull false [byteOf s.policy.length] := by
  have accepted : ¬(x.count = 0 ∨ 10 < x.count ∨ (normalisePolicy x.policy).value.rangesGood = false) := by
    rw [good]; simp; omega
  rw [State.policyLoad, if_neg accepted, h]
  rfl

theorem State.policyLoad_of_loaded {table : List PolicyEntry} {held : Bool}
    (h : loadEntry ⟨x.key, (normalisePolicy x.policy).value⟩ s.policy = some (table, held)) :
    s.policyLoad f x = { s with policy := table }.answer f .done (normalisePolicy x.policy).adjusted
      [yesNo held, byteOf (indexOfKey x.key table), byteOf table.length] := by
  have accepted : ¬(x.count = 0 ∨ 10 < x.count ∨ (normalisePolicy x.policy).value.rangesGood = false) := by
    rw [good]; simp; omega
  rw [State.policyLoad, if_neg accepted, h]

end PolicyLoad

theorem Policy.rangesGood_iff (p : Policy) :
    p.rangesGood = true ↔ p.accountMin ≤ p.accountMax ∧ p.concealedMin ≤ p.concealedMax := by
  simp [Policy.rangesGood]

/-- Settles O9. -/
theorem policyLoadReplacesOrInserts : Obligations.PolicyLoadReplacesOrInserts := by
  intro s q payload x ht hx h1 h10 p account concealed held e
  have row := exec_policyLoad s q payload hx
  have good := (Policy.rangesGood_iff p.value).2 ⟨account, concealed⟩
  refine ⟨fun room => ?_, fun fresh full => ?_⟩
  · obtain ⟨table, loaded, length, mem⟩ := loadEntry_spec (e := e) room
    have loaded' : loadEntry e s.takeHead.policy = some (table, held) := by rw [s.takeHead_policy]; exact loaded
    refine ⟨table, indexOfKey x.key table, ?_, ?_, length, mem⟩
    · refine exec_of_counter row ht ?_ s.takeHead_counter
      exact (State.policyLoad_of_loaded _ _ h1 h10 good loaded').trans (State.answer_eq _ _ _ _ _)
    · refine indexOfKey_getElem? (e := e) ((mem e).2 (.inl rfl)) fun y hy same => ?_
      exact ((mem y).1 hy).resolve_right fun other => other.2 same
  · have none : loadEntry e s.takeHead.policy = none := by rw [s.takeHead_policy]; exact loadEntry_full fresh full
    rw [← s.takeHead_policy]
    exact exec_of_answer row ht (State.policyLoad_of_full _ _ h1 h10 good none)

/-! ### POLICY-DROP (R84) -/

section PolicyDrop

variable (s) (f : Frame) {key : Digits}

theorem State.policyDrop_of_bad (h : key.length = 0 ∨ 10 < key.length) :
    s.policyDrop f key = s.answer f .badRequest false [byteOf s.policy.length] := if_pos h

theorem State.policyDrop_of_missing (h1 : 1 ≤ key.length) (h10 : key.length ≤ 10) (h : ∀ y ∈ s.policy, y.key ≠ key) :
    s.policyDrop f key = s.answer f .notFound false [byteOf s.policy.length] := by
  have missing : ¬holdsKey key s.policy = true := by simpa [holdsKey_iff] using h
  exact (if_neg (by omega)).trans (if_neg missing)

theorem State.policyDrop_of_held (h1 : 1 ≤ key.length) (h10 : key.length ≤ 10) {before after : List PolicyEntry}
    {e : PolicyEntry} (h : s.policy = before ++ e :: after) (he : e.key = key)
    (others : ∀ y ∈ before ++ after, y.key ≠ key) :
    s.policyDrop f key = { s with policy := before ++ after }.answer f .done false
      [byteOf (before ++ after).length] := by
  have held : holdsKey key s.policy = true := (holdsKey_iff _ _).2 ⟨e, by simp [h], he⟩
  have kept : ∀ l : List PolicyEntry, (∀ y ∈ l, y.key ≠ key) → (l.filter fun y => !(y.key == key)) = l :=
    fun l hl => List.filter_eq_self.2 fun y hy => by simpa using hl y hy
  have rest : (s.policy.filter fun y => !(y.key == key)) = before ++ after := by
    rw [h, List.filter_append, List.filter_cons, kept before fun y hy => others y (List.mem_append_left _ hy),
      kept after fun y hy => others y (List.mem_append_right _ hy)]
    simp [he]
  rw [State.policyDrop, if_neg (by omega), if_pos held, rest]
  rfl

end PolicyDrop

/-- What an answer beside a table leaves: the intake, the link's output and the table alone. -/
theorem State.answered_table (s : State) (table : List PolicyEntry) (i : Item) :
    let t := ({ s.takeHead with policy := table }.append i).beginNext
    t = { s.takeHead with
        policy := table, pendingFlow := t.pendingFlow, outbound := t.outbound, sending := t.sending }
      ∧ t.shows i ∧ (s.sending.isSome = true → t.outbound = s.outbound ++ [i]) := by
  refine ⟨?_, State.shows_beginNext _ _ (State.shows_append _ _), fun busy => ?_⟩
  · conv_lhs => rw [State.beginNext_eq]
    rfl
  · rw [State.beginNext_of_sending _ (by simpa using busy)]
    simp

theorem exec_policyDrop_of_answer {key : Digits} (hx : dropRequestOf payload = some key)
    (ht : s.takesNow ⟨0x05, q, payload⟩) {table : List PolicyEntry} {o : ReplyOutcome} {data : List Byte}
    (h : s.takeHead.policyDrop ⟨0x05, q, payload⟩ key =
      { s.takeHead with policy := table }.answer ⟨0x05, q, payload⟩ o false data) :
    exec (.policyDrop q payload) s =
      .next ({ s.takeHead with policy := table }.append (.reply q 0x85 o false data)).beginNext :=
  exec_of_counter (exec_policyDrop s q payload hx) ht (h.trans (State.answer_eq _ _ _ _ _)) s.takeHead_counter

/-- Settles O10. -/
theorem policyDropRemovesOneEntry : Obligations.PolicyDropRemovesOneEntry := by
  intro s q payload ht answers
  have kept : { s.takeHead with policy := s.policy } = s.takeHead := by
    conv_rhs => rw [s.takeHead_eq]
    rw [s.takeHead_eq]
  have answer : ∀ {table : List PolicyEntry} {o : ReplyOutcome} {data : List Byte},
      exec (.policyDrop q payload) s =
        .next ({ s.takeHead with policy := table }.append (.reply q 0x85 o false data)).beginNext →
      answers table o data := fun e => ⟨_, e, s.answered_table _ _⟩
  refine ⟨fun none => answer ?_, fun key hx => ⟨fun empty => answer ?_, fun long => ⟨[byteOf s.policy.length], answer ?_⟩,
    fun h1 h10 missing => answer ?_, fun h1 h10 before e after h he others => answer ?_⟩⟩
  · rw [kept]
    exact commandRow_of_none none _ ht
  · refine exec_policyDrop_of_answer hx ht ?_
    rw [kept, ← s.takeHead_policy]
    exact State.policyDrop_of_bad _ _ (.inl empty)
  · refine exec_policyDrop_of_answer hx ht ?_
    rw [kept, ← s.takeHead_policy]
    exact State.policyDrop_of_bad _ _ (.inr long)
  · refine exec_policyDrop_of_answer hx ht ?_
    rw [kept, ← s.takeHead_policy]
    exact State.policyDrop_of_missing _ _ h1 h10 (by rwa [s.takeHead_policy])
  · exact exec_policyDrop_of_answer hx ht
      (State.policyDrop_of_held _ _ h1 h10 (by rw [s.takeHead_policy, h]) he others)

/-! ### DEFAULT-POLICY and SET-DATE (R86, R88) -/

theorem State.replaceDefault_of_good (s : State) (f : Frame) {x : Policy}
    (h : (normalisePolicy x).value.rangesGood = true) : s.replaceDefault f x =
      { s with defaultPolicy := (normalisePolicy x).value }.answer f .done (normalisePolicy x).adjusted [] := if_pos h

theorem State.replaceDefault_of_bad (s : State) (f : Frame) {x : Policy}
    (h : ¬(normalisePolicy x).value.rangesGood = true) : s.replaceDefault f x = s.answer f .badRequest false [] :=
  if_neg h

theorem State.setDate_of_bad (s : State) (f : Frame) {x : Byte × Byte}
    (h : 99 < x.1.toNat ∨ x.2.toNat < 1 ∨ 12 < x.2.toNat) : s.setDate f x = s.answer f .badRequest false [] := if_pos h

theorem State.setDate_of_good (s : State) (f : Frame) {x : Byte × Byte}
    (h : ¬(99 < x.1.toNat ∨ x.2.toNat < 1 ∨ 12 < x.2.toNat)) : s.setDate f x =
      { s with businessMonth := some ⟨x.1.toNat, x.2.toNat⟩ }.answer f .done false [] := if_neg h

/-- Settles O11. -/
theorem defaultPolicyAndDateAreStored : Obligations.DefaultPolicyAndDateAreStored := by
  refine ⟨fun s q payload x ht hx => ⟨fun good => ?_, fun bad => ?_⟩,
    fun s q year month ht => ⟨fun good => ?_, fun bad => ?_⟩⟩
  · refine exec_of_counter (exec_defaultPolicy s q payload hx) ht ?_ s.takeHead_counter
    exact (State.replaceDefault_of_good _ _ ((Policy.rangesGood_iff _).2 good)).trans (State.answer_eq _ _ _ _ _)
  · exact exec_of_answer (exec_defaultPolicy s q payload hx) ht
      (State.replaceDefault_of_bad _ _ (mt (Policy.rangesGood_iff _).1 bad))
  · refine exec_of_counter (exec_setDate s q [year, month] rfl) ht ?_ s.takeHead_counter
    exact (State.setDate_of_good _ _ (by dsimp only; omega)).trans (State.answer_eq _ _ _ _ _)
  · exact exec_of_answer (exec_setDate s q [year, month] rfl) ht
      (State.setDate_of_bad _ _ (by dsimp only; omega))

/-! ### SETTINGS (R174) -/

/-- The code of a setting: its place in the order of R174. -/
def SettingName.code : SettingName → Nat
  | .restartLimit => 1
  | .supervision => 2
  | .settleSelect => 3
  | .highThreshold => 4
  | .lowThreshold => 5
  | .defaultStepTime => 6
  | .warnLead => 7

theorem code_of_settingNameOf {b : Byte} {n : SettingName} (h : settingNameOf b = some n) : b.toNat = n.code := by
  unfold settingNameOf at h
  split at h
  case h_8 => cases h
  all_goals
    cases h
    assumption

theorem settingNameOf_injective {a b : Byte} {n : SettingName} (ha : settingNameOf a = some n)
    (hb : settingNameOf b = some n) : a = b :=
  BitVec.eq_of_toNat_eq ((code_of_settingNameOf ha).trans (code_of_settingNameOf hb).symm)

theorem namedSettings_of_unknown {l : List (Byte × Nat)} (h : ∃ x ∈ l, settingNameOf x.1 = none) :
    namedSettings l = none := by
  induction l with
  | nil => simp at h
  | cons y ys ih =>
    obtain ⟨b, v⟩ := y
    rw [namedSettings]
    cases hb : settingNameOf b with
    | none => rfl
    | some n =>
      have later : ∃ x ∈ ys, settingNameOf x.1 = none := by simpa [hb] using h
      rw [ih later]

/-- With every code known, the settings named are the pairs given, each code read as the name it stands for. -/
theorem namedSettings_of_known {l : List (Byte × Nat)} (h : ∀ x ∈ l, settingNameOf x.1 ≠ none) :
    ∃ m, namedSettings l = some m
      ∧ l.map (fun x => (settingNameOf x.1, x.2)) = m.map fun y => (some y.1, y.2) := by
  induction l with
  | nil => exact ⟨[], rfl, rfl⟩
  | cons y ys ih =>
    obtain ⟨b, v⟩ := y
    obtain ⟨m, hm, same⟩ := ih fun x hx => h x (List.mem_cons_of_mem _ hx)
    obtain ⟨n, hn⟩ := Option.ne_none_iff_exists'.1 (h (b, v) (by simp))
    refine ⟨(n, v) :: m, by rw [namedSettings, hn, hm], ?_⟩
    rw [List.map_cons, List.map_cons, same]
    dsimp only at hn ⊢
    rw [hn]

section Named

variable {l : List (Byte × Nat)} {m : List (SettingName × Nat)}
  (h : l.map (fun x => (settingNameOf x.1, x.2)) = m.map fun y => (some y.1, y.2))

include h

theorem mem_named_iff {n : SettingName} {v : Nat} : (n, v) ∈ m ↔ ∃ b, settingNameOf b = some n ∧ (b, v) ∈ l := by
  have inM : (some n, v) ∈ (m.map fun y => (some y.1, y.2)) ↔ (n, v) ∈ m := by simp
  rw [← inM, ← h]
  simp only [List.mem_map, Prod.mk.injEq, Prod.exists]
  exact ⟨fun ⟨b, w, mem, e, hv⟩ => ⟨b, e, hv ▸ mem⟩, fun ⟨b, e, mem⟩ => ⟨b, v, mem, e, rfl⟩⟩

/-- A code is given twice exactly when a setting is named twice. -/
theorem nodup_named_iff (known : ∀ x ∈ l, settingNameOf x.1 ≠ none) : (m.map (·.1)).Nodup ↔ (l.map (·.1)).Nodup := by
  have names : (l.map (·.1)).map settingNameOf = (m.map (·.1)).map some := by
    simpa [Function.comp_def] using congrArg (List.map Prod.fst) h
  rw [← List.nodup_map_iff (f := some) (Option.some_injective _), ← names]
  refine ⟨List.Nodup.of_map _, List.Nodup.map_on fun a ha b _ e => ?_⟩
  obtain ⟨x, hx, rfl⟩ := List.mem_map.1 ha
  obtain ⟨n, hn⟩ := Option.ne_none_iff_exists'.1 (known x hx)
  exact settingNameOf_injective hn (e ▸ hn)

end Named

theorem Settings.get_put (x : Settings) (n k : SettingName) (v : Nat) :
    (x.put n v).get k = if k = n then v else x.get k := by
  cases n <;> cases k <;> rfl

theorem Settings.get_store_of_not_mem (x : Settings) {m : List (SettingName × Nat)} {n : SettingName}
    (h : ∀ y ∈ m, y.1 ≠ n) : (x.store m).get n = x.get n := by
  induction m generalizing x with
  | nil => rfl
  | cons y ys ih =>
    rw [Settings.store, ih _ fun z hz => h z (List.mem_cons_of_mem _ hz), Settings.get_put,
      if_neg (h y (by simp)).symm]

/-- Of settings named once each, every one holds its value brought into its range. -/
theorem Settings.get_store_of_mem (x : Settings) {m : List (SettingName × Nat)} (once : (m.map (·.1)).Nodup)
    {n : SettingName} {v : Nat} (h : (n, v) ∈ m) : (x.store m).get n = (settingInRange n v).value := by
  induction m generalizing x with
  | nil => cases h
  | cons y ys ih =>
    rw [List.map_cons, List.nodup_cons] at once
    rcases List.mem_cons.1 h with rfl | h
    · have fresh : ∀ z ∈ ys, z.1 ≠ n := fun z hz e => once.1 (List.mem_map.2 ⟨z, hz, e⟩)
      rw [Settings.store, Settings.get_store_of_not_mem _ fresh, Settings.get_put, if_pos rfl]
    · exact ih _ once.2 h

section ChangeSettings

variable (s) (f : Frame) {l : List (Byte × Nat)}

theorem State.changeSettings_of_unknown (h : namedSettings l = none) :
    s.changeSettings f l = s.answer f .badRequest false [] := by rw [State.changeSettings, h]; rfl

variable {m : List (SettingName × Nat)} (h : namedSettings l = some m)

include h

theorem State.changeSettings_of_twice (twice : ¬(m.map (·.1)).Nodup) :
    s.changeSettings f l = s.answer f .badRequest false [] := by
  rw [State.changeSettings, h]
  exact if_neg twice

theorem State.changeSettings_of_once (once : (m.map (·.1)).Nodup) : s.changeSettings f l =
    (s.storeSettings (s.settings.store m)).answer f .done (anyAdjusted m) (s.settings.store m).bytes := by
  rw [State.changeSettings, h]
  exact if_pos once

end ChangeSettings

/-- Settles O20: the settings stored are `Settings.store` of the settings named, and each is read back through it. -/
theorem settingsAreStoredTogether : Obligations.SettingsAreStoredTogether := by
  intro s q payload l ht hx
  have row := exec_settings s q payload hx
  refine ⟨fun bad => ?_, fun known once => ?_⟩
  · by_cases known : ∀ x ∈ l, settingNameOf x.1 ≠ none
    · obtain ⟨m, hm, same⟩ := namedSettings_of_known known
      have twice := bad.resolve_left fun ⟨x, hx, e⟩ => known x hx e
      rw [← nodup_named_iff same known] at twice
      exact exec_of_answer row ht (State.changeSettings_of_twice _ _ hm twice)
    · exact exec_of_answer row ht (State.changeSettings_of_unknown _ _ (namedSettings_of_unknown (by simpa using known)))
  · obtain ⟨m, hm, same⟩ := namedSettings_of_known known
    have onceNamed := (nodup_named_iff same known).2 once
    refine ⟨s.settings.store m, anyAdjusted m, ?_, fun n b v hn mem => ?_, fun n none => ?_, ?_⟩
    · have stored : { s.takeHead with
          settings := s.settings.store m
          devices := s.devices.map fun d : Device =>
            ({ d with restartCount := min d.restartCount (s.settings.store m).restartLimit } : Device) } =
          s.takeHead.storeSettings (s.settings.store m) := by
        rw [← s.takeHead_devices]; rfl
      refine exec_of_counter row ht ?_ s.takeHead_counter
      rw [stored, ← s.takeHead_settings]
      exact (State.changeSettings_of_once _ _ hm onceNamed).trans (State.answer_eq _ _ _ _ _)
    · exact Settings.get_store_of_mem _ onceNamed ((mem_named_iff same).2 ⟨b, hn, mem⟩)
    · refine Settings.get_store_of_not_mem _ fun y hy e => ?_
      obtain ⟨b, hb, mem⟩ := (mem_named_iff same).1 hy
      exact none _ mem (by rw [hb, e])
    · simp only [anyAdjusted, List.any_eq_true, settingInRange_adjusted, Prod.exists, mem_named_iff same]
      exact ⟨fun ⟨n, v, ⟨b, hb, mem⟩, e⟩ => ⟨n, b, v, hb, mem, e⟩, fun ⟨n, b, v, hb, mem, e⟩ => ⟨n, v, ⟨b, hb, mem⟩, e⟩⟩

end Sys2Proof.Machine
end

section
/-! PROOFS. The passing of time (R91, R95, R96, R142, R149), and the rows that do nothing but let time pass, change a pin,
or reset the part. -/

namespace Sys2Proof.Machine

variable (s : State)

/-! ### What the end of an event leaves (R171, R190) -/

section Whole

variable (before : State)

theorem State.passZeroSettle_cases :
    s.passZeroSettle before = s ∨ s.passZeroSettle before = s.removeSettle.settleComplete := by
  unfold State.passZeroSettle
  split
  · exact .inr rfl
  · exact .inl rfl

@[simp] theorem State.passZeroSettle_tick : (s.passZeroSettle before).tick = s.tick := by
  unfold State.passZeroSettle; split <;> rfl
@[simp] theorem State.passZeroSettle_sessions : (s.passZeroSettle before).sessions = s.sessions := by
  unfold State.passZeroSettle; split <;> rfl
@[simp] theorem State.passZeroSettle_devices : (s.passZeroSettle before).devices = s.devices := by
  unfold State.passZeroSettle; split <;> rfl
@[simp] theorem State.passZeroSettle_nextDue : (s.passZeroSettle before).nextDue = s.nextDue := by
  unfold State.passZeroSettle; split <;> rfl
@[simp] theorem State.passZeroSettle_owed : (s.passZeroSettle before).owed = s.owed := by
  unfold State.passZeroSettle; split <;> rfl
@[simp] theorem State.passZeroSettle_flight : (s.passZeroSettle before).flight = s.flight := by
  unfold State.passZeroSettle; split <;> rfl
@[simp] theorem State.passZeroSettle_supplies : (s.passZeroSettle before).supplies = s.supplies := by
  unfold State.passZeroSettle; split <;> rfl
@[simp] theorem State.passZeroSettle_wakeCause : (s.passZeroSettle before).wakeCause = s.wakeCause := by
  unfold State.passZeroSettle; split <;> rfl
@[simp] theorem State.passZeroSettle_awaiting : (s.passZeroSettle before).awaiting = s.awaiting := by
  unfold State.passZeroSettle; split <;> rfl
@[simp] theorem State.passZeroSettle_textOwed : (s.passZeroSettle before).textOwed = s.textOwed := by
  unfold State.passZeroSettle; split <;> rfl
@[simp] theorem State.passZeroSettle_settings : (s.passZeroSettle before).settings = s.settings := by
  unfold State.passZeroSettle; split <;> rfl
@[simp] theorem State.passZeroSettle_idleTexts : (s.passZeroSettle before).idleTexts = s.idleTexts := by
  unfold State.passZeroSettle; split <;> rfl
@[simp] theorem State.passZeroSettle_closedText : (s.passZeroSettle before).closedText = s.closedText := by
  unfold State.passZeroSettle; split <;> rfl
@[simp] theorem State.passZeroSettle_policy : (s.passZeroSettle before).policy = s.policy := by
  unfold State.passZeroSettle; split <;> rfl
@[simp] theorem State.passZeroSettle_defaultPolicy : (s.passZeroSettle before).defaultPolicy = s.defaultPolicy := by
  unfold State.passZeroSettle; split <;> rfl
@[simp] theorem State.passZeroSettle_businessMonth : (s.passZeroSettle before).businessMonth = s.businessMonth := by
  unfold State.passZeroSettle; split <;> rfl
@[simp] theorem State.whole_tick : (s.whole before).tick = s.tick := by simp [State.whole]
@[simp] theorem State.whole_sessions : (s.whole before).sessions = s.sessions := by simp [State.whole]
@[simp] theorem State.whole_devices : (s.whole before).devices = s.devices := by simp [State.whole]
@[simp] theorem State.whole_nextDue : (s.whole before).nextDue = s.nextDue := by simp [State.whole]
@[simp] theorem State.whole_owed : (s.whole before).owed = s.owed := by simp [State.whole]
@[simp] theorem State.whole_flight : (s.whole before).flight = s.flight := by simp [State.whole]
@[simp] theorem State.whole_supplies : (s.whole before).supplies = s.supplies := by simp [State.whole]
@[simp] theorem State.whole_wakeCause : (s.whole before).wakeCause = s.wakeCause := by simp [State.whole]
@[simp] theorem State.whole_awaiting : (s.whole before).awaiting = s.awaiting := by simp [State.whole]
@[simp] theorem State.whole_textOwed : (s.whole before).textOwed = s.textOwed := by simp [State.whole]
@[simp] theorem State.whole_settings : (s.whole before).settings = s.settings := by simp [State.whole]
@[simp] theorem State.whole_idleTexts : (s.whole before).idleTexts = s.idleTexts := by simp [State.whole]
@[simp] theorem State.whole_closedText : (s.whole before).closedText = s.closedText := by simp [State.whole]
@[simp] theorem State.whole_policy : (s.whole before).policy = s.policy := by simp [State.whole]
@[simp] theorem State.whole_defaultPolicy : (s.whole before).defaultPolicy = s.defaultPolicy := by simp [State.whole]
@[simp] theorem State.whole_businessMonth : (s.whole before).businessMonth = s.businessMonth := by simp [State.whole]
@[simp] theorem State.whole_session (st : Station) : (s.whole before).session st = s.session st := by
  simp [State.session]
@[simp] theorem State.whole_device (p : Port) : (s.whole before).device p = s.device p := by simp [State.device]
@[simp] theorem State.whole_supply (st : Station) : (s.whole before).supply st = s.supply st := by simp [State.supply]
@[simp] theorem State.whole_due (p : Port) : (s.whole before).due p = s.due p := by simp [State.due]
@[simp] theorem State.whole_waited (p : Port) : (s.whole before).waited p = s.waited p := by simp [State.waited]
@[simp] theorem State.whole_owes (p : Port) : (s.whole before).owes p = s.owes p := by simp [State.owes]

/-- The end of an event may let the SETTLE entry fall due, and no other. -/
theorem State.whole_deadlineOf (o : Owner) (k : DeadlineKind) (h : ¬(o = .counter ∧ k = .settle)) :
    (s.whole before).deadlineOf o k = s.deadlineOf o k := by
  rw [State.whole, State.beginNext_deadlineOf]
  rcases s.passZeroSettle_cases before with e | e
  · rw [e]
  · rw [e]
    exact s.deadlineOf_removeDeadline_of_ne _ _ _ _ h

/-- A reply, a STEP-RESULT or a SESSION-END that stands is shown at the end of the event. -/
theorem State.shows_whole {i : Item} (hi : i.key = none) (h : i ∈ s.outbound) : (s.whole before).shows i := by
  obtain ⟨u, e, hu, -⟩ := s.whole_spec before
  rw [hu]
  exact u.shows_beginNext i (.inl (e.mem_outbound hi h))

theorem State.sameStore_whole : SameStore s (s.whole before) := by simp [SameStore]

end Whole

/-! ### The clock (R91, R95, R142, R149) -/

theorem mem_stations (st : Station) : st ∈ stations := by
  revert st
  decide

theorem mem_ports (p : Port) : p ∈ ports := by
  revert p
  decide

/-- As the counter moves on by at most 2³¹ ticks, an entry that was not due becomes due when its distance is passed. -/
theorem isDue_iff_distance_le {now t d : Tick} (h : isDue now d = false) (ht : distance now t ≤ 2147483648) :
    isDue t d = true ↔ distance now d ≤ distance now t := by
  rw [← Bool.not_eq_true, isDue_iff, toNat_tick_sub] at h
  rw [isDue_iff, toNat_tick_sub]
  unfold distance at *
  rw [toNat_tick_sub] at *
  rw [toNat_tick_sub]
  have := now.isLt
  have := t.isLt
  have := d.isLt
  omega

theorem distance_le_of_not_isDue {now t : Tick} (h : isDue now t = false) : distance now t ≤ 2147483648 := by
  rw [← Bool.not_eq_true, isDue_iff, toNat_tick_sub] at h
  rw [distance, toNat_tick_sub]
  have := now.isLt
  have := t.isLt
  omega

theorem distance_succ (t : Tick) : distance t (t + 1) = 1 := distance_ahead t (d := 1) (by omega)

/-- What an advance makes of the due ticks (R142). -/
theorem State.duesPass_advanceTo {t : Tick} (h : distance s.tick t ≤ 2147483648) : DuesPass s (s.advanceTo t) := by
  intro p
  refine ⟨fun e => ?_, fun n e => ?_, fun d e notDue => ?_⟩
  · rw [State.advanceTo_due, e]; rfl
  · rw [State.advanceTo_due, e]; rfl
  · rw [State.advanceTo_due, e, Option.map_some, Due.passTo]
    by_cases due : distance s.tick d ≤ distance s.tick t
    · rw [if_pos ((isDue_iff_distance_le notDue h).2 due),
        if_pos (show distance s.tick d ≤ distance s.tick (s.advanceTo t).tick from due)]
      rfl
    · rw [if_neg (mt (isDue_iff_distance_le notDue h).1 due),
        if_neg (show ¬distance s.tick d ≤ distance s.tick (s.advanceTo t).tick from due)]

theorem SupplyState.sampled_iff (x : SupplyState) : x.sampled = true ↔ x = .trial ∨ x = .on := by
  cases x <;> simp [SupplyState.sampled]

theorem State.owesSample_iff (t : Tick) : s.owesSample t = true ↔ ∃ st : Station, t.toNat % 10 = st.val
    ∧ ((s.supply st).state = .trial ∨ (s.supply st).state = .on) := by
  simp [State.owesSample, SupplyState.sampled_iff, mem_stations]

/-- Settles O1. -/
theorem stepRunsTheFrontCommand : Obligations.StepRunsTheFrontCommand := by
  refine ⟨fun s i rest h => by rw [step, h], fun s h => ⟨fun i hi => by rw [step, h]; simp only [hi], fun none => ?_⟩⟩
  refine ⟨s.tickOnce, by rw [step, h]; simp only [none], rfl, s.duesPass_advanceTo ?_, ?_⟩
  · rw [distance_succ]; omega
  · rw [State.tickOnce, State.advanceTo_slotServed, Bool.not_eq_false', State.owesSample_iff]

/-! ### Power-on (R179, R181, R191) -/

theorem strapRate_eq (x : Straps) : strapRate x = if x.first then (if x.second then .baud921600 else .baud460800)
    else (if x.second then .baud230400 else .baud115200) := by
  obtain ⟨a, b⟩ := x
  cases a <;> cases b <;> rfl

theorem State.powerOn_whole (x : Straps) : (s.powerOn x).whole s = (s.powerOn x).beginNext := by
  rw [State.whole, State.passZeroSettle_of_ne _ _ (.inl (by simp [State.powerOn, State.reset]))]

/-- Settles O30. -/
theorem powerOnGivesEveryBlockItsPowerOnValues : Obligations.PowerOnGivesEveryBlockItsPowerOnValues := by
  intro s x rate t
  have ht : (s.powerOn x).whole s = t := by
    rw [s.powerOn_whole x, State.powerOn, strapRate_eq]
  refine ⟨congrArg _ ht, congrArg _ ht, ?_, ?_, ?_, ?_, fun st => ⟨?_, ?_, ?_⟩, fun p => ?_, ?_, ?_⟩
  all_goals simp [t, State.session, State.supply, State.device, State.reset, Device.blank, Supply.blank]

/-! ### CTS (R185, R190) -/

theorem State.beginNext_of_flow {f : Flow} (hs : s.sending = none) (hc : s.cts = true) (hf : s.pendingFlow = some f) :
    s.beginNext = { s with pendingFlow := none, sending := some ⟨.flow f, (Outgoing.flow f).bytes⟩ } := by
  unfold State.beginNext
  simp only [hs, hc, hf]
  rfl

theorem State.beginNext_of_item {i : Item} {rest : List Item} (hs : s.sending = none) (hc : s.cts = true)
    (hf : s.pendingFlow = none) (ho : s.outbound = i :: rest) :
    s.beginNext = { s with outbound := rest, sending := some ⟨.item i, (Outgoing.item i).bytes⟩ } := by
  unfold State.beginNext
  simp only [hs, hc, hf, ho]
  rfl

theorem State.beginNext_of_idle (h : s.cts = false ∨ s.sending ≠ none ∨ (s.pendingFlow = none ∧ s.outbound = [])) :
    s.beginNext = s := by
  rcases s.beginNext_cases with ⟨e, -⟩ | ⟨hs, hc, f, hf, -⟩ | ⟨hs, hc, hf, i, rest, ho, -⟩
  · exact e
  · simp [hs, hc, hf] at h
  · simp [hs, hc, ho] at h

/-- Settles O26: the row is the pin's change and the start of a frame. -/
theorem ctsGatesTheNextFrame : Obligations.CtsGatesTheNextFrame := by
  intro s on
  refine ⟨_, eventRow_of_same s (fun s => { s with cts := on }) rfl, State.beginNext_eq _, fun closed => ?_,
    fun open' idle => ⟨fun f hf => ?_, fun hf i rest ho => ?_, fun hf ho => ?_⟩⟩
  · rw [State.beginNext_of_idle { s with cts := on } (closed.imp id .inl)]
    exact ⟨rfl, rfl, rfl⟩
  · rw [State.beginNext_of_flow { s with cts := on } idle open' hf]
    exact ⟨rfl, rfl, rfl⟩
  · rw [State.beginNext_of_item { s with cts := on } idle open' hf ho]
    exact ⟨hf, rfl, rfl⟩
  · rw [State.beginNext_of_idle { s with cts := on } (.inr (.inr ⟨hf, ho⟩))]
    exact ⟨idle, ho⟩

/-! ### Sampling slots (R149) -/

/-- The next slot of a station lies within 16 ticks, across the wrap too. -/
theorem exists_slot_within (now : Tick) (st : Station) : ∃ d, 1 ≤ d ∧ d ≤ 16 ∧ (ahead now d).toNat % 10 = st.val := by
  have := now.isLt
  have := st.isLt
  have key : ∀ d, d ≤ 16 → (ahead now d).toNat = (now.toNat + d) % 4294967296 := fun d hd => by
    simp [ahead, BitVec.toNat_add]
  by_cases near : now.toNat + ((st.val + 10 - now.toNat % 10 + 9) % 10 + 1) < 4294967296
  · exact ⟨(st.val + 10 - now.toNat % 10 + 9) % 10 + 1, by omega, by omega, by rw [key _ (by omega)]; omega⟩
  · exact ⟨4294967296 - now.toNat + st.val, by omega, by omega, by rw [key _ (by omega)]; omega⟩

/-- Whether a tick so far ahead is a slot of a station that is still to be sampled. -/
def openSlot (now : Tick) (served : Bool) (st : Station) (d : Nat) : Bool :=
  (ahead now d).toNat % 10 = st.val && !(served && d = 0)

theorem slotAhead_eq (now : Tick) (served : Bool) (st : Station) :
    slotAhead now served st = (List.range 17).find? (openSlot now served st) := rfl

theorem openSlot_iff (now : Tick) (served : Bool) (st : Station) (d : Nat) :
    openSlot now served st d = true ↔ (d = 0 → served = false) ∧ (ahead now d).toNat % 10 = st.val := by
  cases served <;> simp [openSlot, and_comm]

theorem slotAhead_spec (now : Tick) (served : Bool) (st : Station) : ∃ d, slotAhead now served st = some d
    ∧ d ≤ 16 ∧ openSlot now served st d = true ∧ ∀ k, openSlot now served st k = true → d ≤ k := by
  obtain ⟨d, h1, h16, hd⟩ := exists_slot_within now st
  have isOpen : openSlot now served st d = true := (openSlot_iff _ _ _ _).2 ⟨by omega, hd⟩
  cases h : slotAhead now served st with
  | none =>
    rw [slotAhead_eq, List.find?_eq_none] at h
    exact absurd isOpen (h d (by simp; omega))
  | some e =>
    rw [slotAhead_eq, List.find?_range_eq_some] at h
    obtain ⟨he, mem, before⟩ := h
    refine ⟨e, rfl, by simp at mem; omega, he, fun k hk => Nat.le_of_not_lt fun lt => ?_⟩
    have := before k lt
    simp [hk] at this

/-- A row passes a station's slot exactly when some tick before its instant is a slot still to be sampled. -/
theorem State.passesSlot_iff (t : Tick) (st : Station) : s.passesSlot t st = true ↔
    ((s.supply st).state = .trial ∨ (s.supply st).state = .on) ∧ ∃ k, k < distance s.tick t
      ∧ (k = 0 → s.slotServed = false) ∧ (ahead s.tick k).toNat % 10 = st.val := by
  obtain ⟨d, hd, -, isOpen, first⟩ := slotAhead_spec s.tick s.slotServed st
  rw [State.passesSlot, hd, Bool.and_eq_true, SupplyState.sampled_iff, Option.any_some, decide_eq_true_eq]
  refine and_congr_right fun _ => ⟨fun lt => ⟨d, lt, (openSlot_iff _ _ _ _).1 isOpen⟩, fun ⟨k, lt, hk⟩ => ?_⟩
  exact (first k ((openSlot_iff _ _ _ _).2 hk)).trans_lt lt

theorem State.quiet_iff (st : Station) : s.quiet st = true ↔ 2 * (s.sense[st.val]).toNat ≤ s.settings.highThreshold
    ∧ ((s.supply st).draw = true ↔ s.settings.lowThreshold ≤ 2 * (s.sense[st.val]).toNat) := by
  rw [State.quiet, Bool.and_eq_true, decide_eq_true_eq, beq_iff_eq, Bool.eq_iff_iff, decide_eq_true_eq]
  exact and_congr_right fun _ => Iff.comm

/-! ### Reaching an instant (R96, R149) -/

theorem State.entryBefore_eq_false_iff (t : Tick) : s.entryBefore t = false ↔ ∀ e rest, s.deadlines = e :: rest →
    isDue s.tick e.deadline = false ∧ distance s.tick t ≤ distance s.tick e.deadline := by
  unfold State.entryBefore
  split
  · rename_i h; simp [h]
  · rename_i e rest h
    rw [Bool.or_eq_false_iff, decide_eq_false_iff_not, Nat.not_lt, h]
    exact ⟨fun g x r eq => by cases eq; exact g, fun g => g e rest rfl⟩

theorem State.reach_of_not_due {t : Tick} (h : isDue s.tick t = false) : s.reach t =
    if s.entryBefore t || stations.any (fun st => s.passesSlot t st && !s.quiet st) then none
    else some ((s.passSlots t).advanceTo t) := if_neg (by simp [h])

theorem State.exists_reach_iff {t : Tick} (h : isDue s.tick t = false) : (∃ u, s.reach t = some u) ↔
    s.entryBefore t = false ∧ ∀ st, s.passesSlot t st = true → s.quiet st = true := by
  have quiet : (∀ st, s.passesSlot t st = true → s.quiet st = true) ↔
      stations.any (fun st => s.passesSlot t st && !s.quiet st) = false := by
    simp [mem_stations]
  rw [s.reach_of_not_due h, quiet, ← Bool.or_eq_false_iff]
  cases s.entryBefore t || stations.any (fun st => s.passesSlot t st && !s.quiet st) <;> simp

theorem State.eq_of_reach {t : Tick} {u : State} (h : isDue s.tick t = false) (r : s.reach t = some u) :
    u = (s.passSlots t).advanceTo t := by
  rw [s.reach_of_not_due h] at r
  split at r
  · cases r
  · exact (Option.some.inj r).symm

theorem State.passSlots_state (t : Tick) (st : Station) : ((s.passSlots t).supply st).state = (s.supply st).state := by
  rw [State.passSlots_supply]
  split <;> rfl

/-- What reaching an instant ahead leaves, and what it makes of the supplies and the due ticks (R142, R149). -/
theorem State.reach_spec {t : Tick} {u : State} (h : isDue s.tick t = false) (r : s.reach t = some u) :
    u = { s with tick := t, slotServed := u.slotServed, supplies := u.supplies, nextDue := u.nextDue }
      ∧ DuesPass s u
      ∧ (u.slotServed = false ↔ ∃ st : Station, t.toNat % 10 = st.val
        ∧ ((s.supply st).state = .trial ∨ (s.supply st).state = .on))
      ∧ ∀ st, u.supply st =
        if s.passesSlot t st then (s.supply st).sampledQuietly s.sense[st.val] else s.supply st := by
  have e := s.eq_of_reach h r
  have owes : (s.passSlots t).owesSample t = true ↔ ∃ st : Station, t.toNat % 10 = st.val
      ∧ ((s.supply st).state = .trial ∨ (s.supply st).state = .on) := by
    simp only [State.owesSample_iff, State.passSlots_state]
  refine ⟨by rw [e]; rfl, ?_, ?_, fun st => ?_⟩
  · rw [e]
    exact (s.passSlots t).duesPass_advanceTo (distance_le_of_not_isDue h)
  · rw [e, State.advanceTo_slotServed, Bool.not_eq_false', owes]
  · rw [e, State.advanceTo_supply, State.passSlots_supply]

/-! ### A frame that is late (R183) -/

theorem Rate.baud_pos (r : Rate) : 0 < r.baud := by cases r <;> simp [Rate.baud]

/-- The 20 ms of a frame with n bytes are made up at `limitTicks`, and at no tick before (log 8). -/
theorem Rate.limitTicks_spec (r : Rate) (n : Nat) :
    20 * r.baud ≤ r.limitTicks n * r.baud + n * 10000
      ∧ ∀ k, k < r.limitTicks n → k * r.baud + n * 10000 < 20 * r.baud := by
  have pos := r.baud_pos
  unfold Rate.limitTicks
  simp only [Config.frameLimit]
  constructor
  · have := Nat.lt_div_mul_add (a := 20 * r.baud - n * 10000 + (r.baud - 1)) pos
    omega
  · intro k hk
    have := (Nat.lt_div_iff_mul_lt pos).1 hk
    omega

/-- The receiver's frame end reached: nothing but the receiver, behind the clock. -/
theorem State.timeOutFrame_of_reach {bytes : List Byte} {start : Tick} {u : State}
    (h : s.receiver = .assembling bytes start) (r : s.reach (ahead start (s.rate.limitTicks (bytes.length + 1))) = some u) :
    s.timeOutFrame = { u with receiver := .hunting } := by
  unfold State.timeOutFrame
  rw [h]
  simp only [State.frameEnd, r]

/-- A byte past the 20 ms of its frame is hunted on (log 8). -/
theorem State.receiveByte_of_late {bytes : List Byte} {start : Tick} (h : s.receiver = .assembling bytes start)
    (late : s.rate.fits (bytes.length + 2) (s.tick - start).toNat = false) (b : LineByte) :
    s.receiveByte b = { s with receiver := .hunting }.receiveByte b := by
  unfold State.receiveByte
  rw [h]
  simp only [late]
  rfl

/-- Settles O25. -/
theorem lateFrameIsDiscarded : Obligations.LateFrameIsDiscarded := by
  intro s bytes start h g
  refine ⟨s.rate.limitTicks_spec (bytes.length + 1), fun u r => ⟨?_, (State.reach_some r).1⟩, fun b rest late => ?_⟩
  · have e := s.timeOutFrame_of_reach h r
    rw [← e]
    refine eventRow_of_same s _ ?_
    rw [e, (State.reach_some r).1]
  · have fits : s.rate.fits (bytes.length + 2) (s.tick - start).toNat = false := by
      rw [Rate.fits, decide_eq_false_iff_not]
      simp only [Config.frameLimit]
      omega
    have same : s.receiveBytes (b :: rest) = { s with receiver := .hunting }.receiveBytes (b :: rest) := by
      simp only [State.receiveBytes, List.foldl_cons]
      rw [s.receiveByte_of_late h fits b]
    show eventRow (fun x => x.receiveBytes (b :: rest)) s = eventRow (fun x => x.receiveBytes (b :: rest)) _
    rw [eventRow, eventRow, same]
    rfl

end Sys2Proof.Machine
end

section
/-! PROOFS. What the shared operations of the ports and of the session engine leave, and what they make of the records
they act on. -/

namespace Sys2Proof.Machine

variable (s : State) (st : Station) (p : Port)

@[simp] theorem State.modifySession_eq (f : Session → Session) :
    s.modifySession st f = s.setSession st (f (s.session st)) := rfl
@[simp] theorem State.modifyDevice_eq (f : Device → Device) : s.modifyDevice p f = s.setDevice p (f (s.device p)) := rfl
@[simp] theorem State.modifySupply_eq (f : Supply → Supply) : s.modifySupply st f = s.setSupply st (f (s.supply st)) :=
  rfl

/-! ### Due ticks -/

theorem State.dueNow_eq : s.dueNow p =
    { s with
      nextDue := (s.dueNow p).nextDue } := by
  obtain ⟨n, h⟩ := s.dueNow_spec p
  rw [h]
@[simp] theorem State.dueNow_tick : (s.dueNow p).tick = s.tick := by rw [s.dueNow_eq p]
@[simp] theorem State.dueNow_devices : (s.dueNow p).devices = s.devices := by rw [s.dueNow_eq p]
@[simp] theorem State.dueNow_device (x : Port) : (s.dueNow p).device x = s.device x := by simp [State.device]
@[simp] theorem State.dueNow_owed : (s.dueNow p).owed = s.owed := by rw [s.dueNow_eq p]
@[simp] theorem State.dueNow_owes (x : Port) : (s.dueNow p).owes x = s.owes x := by simp [State.owes]
@[simp] theorem State.dueNow_deadlines : (s.dueNow p).deadlines = s.deadlines := by rw [s.dueNow_eq p]

theorem State.dueWithin_eq (d : Nat) : s.dueWithin p d =
    { s with
      nextDue := (s.dueWithin p d).nextDue } := by
  obtain ⟨n, h⟩ := s.dueWithin_spec p d
  rw [h]

theorem State.dueAfterChange_eq : s.dueAfterChange p =
    { s with
      nextDue := (s.dueAfterChange p).nextDue } := by
  obtain ⟨n, h⟩ := s.dueAfterChange_spec p
  rw [h]
@[simp] theorem State.dueAfterChange_outbound : (s.dueAfterChange p).outbound = s.outbound := by
  rw [s.dueAfterChange_eq p]

/-! ### The command queue -/

theorem State.queueCommand_eq (q : Queued) : s.queueCommand p q =
    { s with
      devices := (s.queueCommand p q).devices
      nextDue := (s.queueCommand p q).nextDue } := by
  unfold State.queueCommand
  dsimp only
  split
  · split
    · rw [State.dueNow_eq]; rfl
    · rfl
  · rfl
@[simp] theorem State.queueCommand_sessions (q : Queued) : (s.queueCommand p q).sessions = s.sessions := by
  rw [s.queueCommand_eq p q]
@[simp] theorem State.queueCommand_session (q : Queued) (x : Station) :
    (s.queueCommand p q).session x = s.session x := by
  simp [State.session]
@[simp] theorem State.queueCommand_deadlines (q : Queued) : (s.queueCommand p q).deadlines = s.deadlines := by
  rw [s.queueCommand_eq p q]
@[simp] theorem State.queueCommand_deadlineOf (q : Queued) (o : Owner) (k : DeadlineKind) :
    (s.queueCommand p q).deadlineOf o k = s.deadlineOf o k := by
  simp [State.deadlineOf]
@[simp] theorem State.queueCommand_outbound (q : Queued) : (s.queueCommand p q).outbound = s.outbound := by
  rw [s.queueCommand_eq p q]
@[simp] theorem State.queueCommand_counter (q : Queued) : (s.queueCommand p q).counter = s.counter := by
  rw [s.queueCommand_eq p q]

/-! ### Port states -/

theorem State.changePort_eq (after : PortState) (reason : DeviceReason) : s.changePort p after reason =
    { s with
      devices := (s.changePort p after reason).devices
      nextDue := (s.changePort p after reason).nextDue
      owed := (s.changePort p after reason).owed
      outbound := (s.changePort p after reason).outbound } := by
  obtain ⟨n, h⟩ := s.changePort_spec p after reason
  rw [h]
  rfl
@[simp] theorem State.changePort_tick (after : PortState) (reason : DeviceReason) :
    (s.changePort p after reason).tick = s.tick := by
  rw [s.changePort_eq p after reason]
@[simp] theorem State.changePort_sending (after : PortState) (reason : DeviceReason) :
    (s.changePort p after reason).sending = s.sending := by
  rw [s.changePort_eq p after reason]
@[simp] theorem State.changePort_idleTexts (after : PortState) (reason : DeviceReason) :
    (s.changePort p after reason).idleTexts = s.idleTexts := by
  rw [s.changePort_eq p after reason]
@[simp] theorem State.changePort_closedText (after : PortState) (reason : DeviceReason) :
    (s.changePort p after reason).closedText = s.closedText := by
  rw [s.changePort_eq p after reason]
@[simp] theorem State.changePort_sessions (after : PortState) (reason : DeviceReason) :
    (s.changePort p after reason).sessions = s.sessions := by
  rw [s.changePort_eq p after reason]
@[simp] theorem State.changePort_session (after : PortState) (reason : DeviceReason) (x : Station) :
    (s.changePort p after reason).session x = s.session x := by
  simp [State.session]
@[simp] theorem State.changePort_deadlines (after : PortState) (reason : DeviceReason) :
    (s.changePort p after reason).deadlines = s.deadlines := by
  rw [s.changePort_eq p after reason]
@[simp] theorem State.changePort_textOwed (after : PortState) (reason : DeviceReason) :
    (s.changePort p after reason).textOwed = s.textOwed := by
  rw [s.changePort_eq p after reason]
@[simp] theorem State.changePort_counter (after : PortState) (reason : DeviceReason) :
    (s.changePort p after reason).counter = s.counter := by
  rw [s.changePort_eq p after reason]

@[simp] theorem State.changePort_device (after : PortState) (reason : DeviceReason) :
    (s.changePort p after reason).device p = { s.device p with state := after } := by
  obtain ⟨n, h⟩ := s.changePort_spec p after reason
  rw [h]
  exact s.device_setDevice p _

theorem State.changePort_device_of_ne (after : PortState) (reason : DeviceReason) {x : Port} (h : x ≠ p) :
    (s.changePort p after reason).device x = s.device x :=
  (edited_changePort (A := .device p) s p after reason rfl).device_eq h

@[simp] theorem State.changePort_owes (after : PortState) (reason : DeviceReason) :
    (s.changePort p after reason).owes p = none := by
  obtain ⟨n, h⟩ := s.changePort_spec p after reason
  rw [h]
  exact State.owes_setOwed _ p none

theorem readerOf_ne_keypadOf (x y : Station) : readerOf x ≠ keypadOf y := by
  intro h
  have := congrArg (fun p => p.val % 2) h
  simp [readerOf, keypadOf] at this

/-- A device is the reader or the keypad of its station. -/
theorem eq_readerOf_or_keypadOf (p : Port) : p = readerOf (stationOf p) ∨ p = keypadOf (stationOf p) := by
  have : p.val % 2 = 0 ∨ p.val % 2 = 1 := by omega
  rcases this with h | h
  · left
    apply Fin.ext
    simp only [readerOf, stationOf]
    omega
  · right
    apply Fin.ext
    simp only [keypadOf, stationOf]
    omega

/-! ### What a queued command does to its device -/

theorem State.queueCommand_device (q : Queued) : (s.queueCommand p q).device p =
    if s.acceptsCommand p q.command then ((s.device p).accept q).1 else s.device p := by
  unfold State.queueCommand
  dsimp only
  split
  · split <;> simp
  · rfl

theorem State.queueCommand_device_of_ne (q : Queued) {x : Port} (h : x ≠ p) :
    (s.queueCommand p q).device x = s.device x :=
  (edited_queueCommand (A := .device p) s p q rfl).device_eq h

/-- Queuing a command leaves every port state. -/
@[simp] theorem State.queueCommand_state (q : Queued) (x : Port) :
    ((s.queueCommand p q).device x).state = (s.device x).state := by
  by_cases h : x = p
  · subst h
    rw [State.queueCommand_device]
    split
    · exact Device.accept_state _ _
    · rfl
  · rw [s.queueCommand_device_of_ne p q h]

end Sys2Proof.Machine
end

section
/-! PROOFS. What the session engine's operations make of the one session's record, of its deadlines and of what is
outstanding for its station. -/

namespace Sys2Proof.Machine

variable (s : State) (st : Station)

/-! ### Notices -/

theorem State.putProgress_eq : s.putProgress st =
    { s with
      outbound := (s.putProgress st).outbound } := by
  unfold State.putProgress
  dsimp only
  split <;> rfl
@[simp] theorem State.putProgress_sending : (s.putProgress st).sending = s.sending := by rw [s.putProgress_eq st]

theorem State.noteProgress_eq : s.noteProgress st =
    { s with
      outbound := (s.noteProgress st).outbound } := by
  unfold State.noteProgress
  split
  all_goals first | exact s.putProgress_eq st | rfl
@[simp] theorem State.noteProgress_sessions : (s.noteProgress st).sessions = s.sessions := by rw [s.noteProgress_eq st]
@[simp] theorem State.noteProgress_session (x : Station) : (s.noteProgress st).session x = s.session x := by
  simp [State.session]
@[simp] theorem State.noteProgress_devices : (s.noteProgress st).devices = s.devices := by rw [s.noteProgress_eq st]
@[simp] theorem State.noteProgress_device (x : Port) : (s.noteProgress st).device x = s.device x := by
  simp [State.device]
@[simp] theorem State.noteProgress_deadlines : (s.noteProgress st).deadlines = s.deadlines := by
  rw [s.noteProgress_eq st]
@[simp] theorem State.noteProgress_deadlineOf (o : Owner) (k : DeadlineKind) :
    (s.noteProgress st).deadlineOf o k = s.deadlineOf o k := by
  simp [State.deadlineOf]

theorem State.noteCount_eq : s.noteCount st =
    { s with
      outbound := (s.noteCount st).outbound } := by
  unfold State.noteCount
  split
  all_goals first | exact s.putProgress_eq st | rfl
@[simp] theorem State.noteCount_sessions : (s.noteCount st).sessions = s.sessions := by rw [s.noteCount_eq st]
@[simp] theorem State.noteCount_session (x : Station) : (s.noteCount st).session x = s.session x := by
  simp [State.session]
@[simp] theorem State.noteCount_devices : (s.noteCount st).devices = s.devices := by rw [s.noteCount_eq st]
@[simp] theorem State.noteCount_device (x : Port) : (s.noteCount st).device x = s.device x := by simp [State.device]
@[simp] theorem State.noteCount_deadlines : (s.noteCount st).deadlines = s.deadlines := by rw [s.noteCount_eq st]
@[simp] theorem State.noteCount_deadlineOf (o : Owner) (k : DeadlineKind) :
    (s.noteCount st).deadlineOf o k = s.deadlineOf o k := by
  simp [State.deadlineOf]

/-! ### Queuing on behalf of a session -/

theorem State.beep_eq (b : BeepKind) : s.beep st b =
    { s with
      devices := (s.beep st b).devices
      nextDue := (s.beep st b).nextDue } := by
  unfold State.beep State.sessionQueue
  split
  · exact s.queueCommand_eq _ _
  · rfl
@[simp] theorem State.beep_sessions (b : BeepKind) : (s.beep st b).sessions = s.sessions := by rw [s.beep_eq st b]
@[simp] theorem State.beep_session (b : BeepKind) (x : Station) : (s.beep st b).session x = s.session x := by
  simp [State.session]
@[simp] theorem State.beep_deadlines (b : BeepKind) : (s.beep st b).deadlines = s.deadlines := by rw [s.beep_eq st b]
@[simp] theorem State.beep_deadlineOf (b : BeepKind) (o : Owner) (k : DeadlineKind) :
    (s.beep st b).deadlineOf o k = s.deadlineOf o k := by
  simp [State.deadlineOf]

theorem State.sessionText_eq (t : Text) : s.sessionText st t =
    { s with
      devices := (s.sessionText st t).devices
      nextDue := (s.sessionText st t).nextDue } := by
  unfold State.sessionText State.sessionQueue
  split
  · exact s.queueCommand_eq _ _
  · rfl
@[simp] theorem State.sessionText_sessions (t : Text) : (s.sessionText st t).sessions = s.sessions := by
  rw [s.sessionText_eq st t]
@[simp] theorem State.sessionText_session (t : Text) (x : Station) : (s.sessionText st t).session x = s.session x := by
  simp [State.session]
@[simp] theorem State.sessionText_deadlines (t : Text) : (s.sessionText st t).deadlines = s.deadlines := by
  rw [s.sessionText_eq st t]
@[simp] theorem State.sessionText_deadlineOf (t : Text) (o : Owner) (k : DeadlineKind) :
    (s.sessionText st t).deadlineOf o k = s.deadlineOf o k := by
  simp [State.deadlineOf]

theorem State.sessionAwait_eq (p : Port) (c : DeviceCommand) (u : Purpose) : s.sessionAwait st p c u =
    { s with
      sessions := (s.sessionAwait st p c u).sessions
      devices := (s.sessionAwait st p c u).devices
      nextDue := (s.sessionAwait st p c u).nextDue } := by
  unfold State.sessionAwait
  dsimp only
  split
  · rw [State.modifySession_eq, State.queueCommand_eq]; rfl
  · rw [State.queueCommand_eq]
@[simp] theorem State.sessionAwait_deadlines (p : Port) (c : DeviceCommand) (u : Purpose) :
    (s.sessionAwait st p c u).deadlines = s.deadlines := by
  rw [s.sessionAwait_eq st p c u]
@[simp] theorem State.sessionAwait_outbound (p : Port) (c : DeviceCommand) (u : Purpose) :
    (s.sessionAwait st p c u).outbound = s.outbound := by
  rw [s.sessionAwait_eq st p c u]
@[simp] theorem State.sessionAwait_textOwed (p : Port) (c : DeviceCommand) (u : Purpose) :
    (s.sessionAwait st p c u).textOwed = s.textOwed := by
  rw [s.sessionAwait_eq st p c u]

/-- A command that is queued is waited on, and no other (R122, R123). -/
theorem State.sessionAwait_session (p : Port) (c : DeviceCommand) (u : Purpose) :
    (s.sessionAwait st p c u).session st = { s.session st with
      waits := (s.session st).waits ++
        if s.queueOutcome p ⟨c, .session st (s.session st).serial u⟩ = .queued then [⟨p, c.cls⟩] else [] } := by
  unfold State.sessionAwait
  dsimp only
  split <;> simp

@[simp] theorem State.sessionAwait_state (p : Port) (c : DeviceCommand) (u : Purpose) (x : Port) :
    ((s.sessionAwait st p c u).device x).state = (s.device x).state := by
  unfold State.sessionAwait
  dsimp only
  split <;> simp

theorem Device.follow_outcome_text (d : Device) (q : Queued) (h : ∃ t, q.command = .showText t) :
    (d.follow q).2 = .queued := by
  obtain ⟨t, h⟩ := h
  unfold Device.follow
  simp only [h]
  cases d.follower with
  | none => rfl
  | some f => rfl

/-- A keypad in a joined state takes a text into its queue or as its follower (R122 to R124). -/
theorem State.queueOutcome_text {p : Port} (hk : kindOf p = .keypad) (hj : (s.device p).state.joined = true)
    (t : Text) (r : Requester) : s.queueOutcome p ⟨.showText t, r⟩ = .queued := by
  have accepts : s.acceptsCommand p (.showText t) = true := by
    rw [State.acceptsCommand, hj, hk]; rfl
  rw [State.queueOutcome, if_pos accepts, Device.accept]
  split
  · exact Device.follow_outcome_text _ _ ⟨t, rfl⟩
  · split <;> rfl

@[simp] theorem kindOf_keypadOf : kindOf (keypadOf st) = .keypad := by
  unfold kindOf keypadOf
  simp

@[simp] theorem kindOf_readerOf : kindOf (readerOf st) = .reader := by
  unfold kindOf readerOf
  simp

theorem State.joined_of_engaged {p : Port} (h : s.engaged p = true) : (s.device p).state.joined = true := by
  rw [State.engaged, beq_iff_eq] at h
  rw [h]
  rfl

/-! ### The end of a session (R19 to R21) -/

/-- What queuing commands that a session waits on can do (R9, R20): to its record, only to what it says of its devices
and of what is waited on; to a device, nothing that shows in its port state; and no more. -/
structure QueuedFor (st : Station) (s t : State) : Prop where
  record : ∃ w b c, t.session st = { s.session st with waits := w, readerIntake := b, concealedOpen := c }
  deadlines : t.deadlines = s.deadlines
  outbound : t.outbound = s.outbound
  textOwed : t.textOwed = s.textOwed
  state : ∀ x, (t.device x).state = (s.device x).state

theorem QueuedFor.trans {st : Station} {s t u : State} (h : QueuedFor st s t) (g : QueuedFor st t u) :
    QueuedFor st s u := by
  obtain ⟨w, b, c, e⟩ := h.record
  obtain ⟨w', b', c', e'⟩ := g.record
  exact ⟨⟨w', b', c', by rw [e', e]⟩, g.deadlines.trans h.deadlines, g.outbound.trans h.outbound,
    g.textOwed.trans h.textOwed, fun x => (g.state x).trans (h.state x)⟩

theorem QueuedFor.refl : QueuedFor st s s := ⟨⟨_, _, _, rfl⟩, rfl, rfl, rfl, fun _ => rfl⟩

theorem queuedFor_await (p : Port) (c : DeviceCommand) (u : Purpose) : QueuedFor st s (s.sessionAwait st p c u) :=
  ⟨⟨_, _, _, s.sessionAwait_session st p c _⟩, by simp, by simp, by simp, by simp⟩

/-- A command with what the record says of its device after it. -/
theorem queuedFor_step (q : Bool) (p : Port) (c : DeviceCommand) (u : Purpose) (f : Session → Session)
    (hf : ∀ r, ∃ b d, f r = { r with readerIntake := b, concealedOpen := d }) :
    QueuedFor st s (if q then (s.sessionAwait st p c u).modifySession st f else s) := by
  split
  · refine (queuedFor_await s st p c _).trans ⟨?_, rfl, rfl, rfl, fun _ => rfl⟩
    obtain ⟨b, d, h⟩ := hf ((s.sessionAwait st p c u).session st)
    exact ⟨_, b, d, by rw [State.modifySession_eq, State.session_setSession, h]⟩
  · exact .refl s st

/-- The wind-down up to the text: INTAKE-OFF and CONCEAL-END (R20). -/
def State.stopInputs (s : State) (st : Station) : State :=
  let s1 :=
    if s.engaged (readerOf st) && (s.session st).readerIntake then
      (s.sessionAwait st (readerOf st) .intakeOff .windDown).modifySession st fun r => { r with readerIntake := false }
    else s
  if s1.engaged (keypadOf st) && (s1.session st).concealedOpen then
    (s1.sessionAwait st (keypadOf st) .concealEnd .windDown).modifySession st fun r => { r with concealedOpen := false }
  else s1

theorem queuedFor_stopInputs : QueuedFor st s (s.stopInputs st) :=
  (queuedFor_step s st _ _ _ _ (fun r => { r with readerIntake := false }) fun _ => ⟨_, _, rfl⟩).trans
    (queuedFor_step _ st _ _ _ _ (fun r => { r with concealedOpen := false }) fun _ => ⟨_, _, rfl⟩)

theorem State.windDown_eq : s.windDown st = if (s.stopInputs st).engaged (keypadOf st) then
    (s.stopInputs st).sessionAwait st (keypadOf st) (.showText (if (s.stopInputs st).counter = .orphaned then
      (s.stopInputs st).closedText else (s.stopInputs st).idleText st)) .windDown else s.stopInputs st := rfl

theorem queuedFor_windDown : QueuedFor st s (s.windDown st) := by
  rw [State.windDown_eq]
  split
  · exact (queuedFor_stopInputs s st).trans (queuedFor_await _ st _ _ _)
  · exact queuedFor_stopInputs s st

theorem QueuedFor.engaged {s t : State} (h : QueuedFor st s t) (p : Port) : t.engaged p = s.engaged p := by
  rw [State.engaged, State.engaged, h.state]

/-- An ENGAGED keypad is given its text in the wind-down, and the session waits on it (R20). -/
theorem State.windDown_waits (h : s.engaged (keypadOf st) = true) : ((s.windDown st).session st).waits ≠ [] := by
  have engaged : (s.stopInputs st).engaged (keypadOf st) = true := by rw [(queuedFor_stopInputs s st).engaged, h]
  rw [State.windDown_eq, if_pos engaged, State.sessionAwait_session,
    State.queueOutcome_text _ (kindOf_keypadOf st) (State.joined_of_engaged _ engaged)]
  simp

theorem State.releasePort_session (p : Port) (x : Station) : (s.releasePort p).session x = s.session x := by
  unfold State.releasePort
  split <;> simp

@[simp] theorem State.releasePort_deadlines (p : Port) : (s.releasePort p).deadlines = s.deadlines := by
  unfold State.releasePort
  split <;> simp

@[simp] theorem State.releasePort_textOwed (p : Port) : (s.releasePort p).textOwed = s.textOwed := by
  unfold State.releasePort
  split <;> simp

@[simp] theorem State.settleTextOwed_session (x : Station) : (s.settleTextOwed st).session x = s.session x := by
  unfold State.settleTextOwed
  dsimp only
  split
  · split
    · rw [State.queueCommand_session]
      rfl
    · rfl
  · rfl

@[simp] theorem State.settleTextOwed_deadlines : (s.settleTextOwed st).deadlines = s.deadlines := by
  unfold State.settleTextOwed
  dsimp only
  split
  · split
    · rw [State.queueCommand_deadlines]
    · rfl
  · rfl

/-- The state in which ENDING is completed: the SESSION-END placed, when the record names its session. -/
def State.withSessionEnd : State :=
  match (s.session st).tag, (s.session st).endCause with
  | some tag, some cause => s.append (.sessionEnd st tag cause)
  | _, _ => s

theorem State.withSessionEnd_spec : ∃ o, s.withSessionEnd st = { s with outbound := o } := by
  unfold State.withSessionEnd
  split
  · exact ⟨_, rfl⟩
  · exact ⟨_, rfl⟩

theorem State.completeEnding_eq : s.completeEnding st =
    ((((s.withSessionEnd st).releasePort (readerOf st)).releasePort (keypadOf st)).modifySession st
      Session.ended).settleTextOwed st := by
  unfold State.completeEnding State.withSessionEnd
  rfl

@[simp] theorem State.completeEnding_session : (s.completeEnding st).session st = (s.session st).ended := by
  obtain ⟨o, h⟩ := s.withSessionEnd_spec st
  rw [State.completeEnding_eq]
  simp [State.releasePort_session, h]
  rfl

@[simp] theorem State.completeEnding_deadlines : (s.completeEnding st).deadlines = s.deadlines := by
  obtain ⟨o, h⟩ := s.withSessionEnd_spec st
  rw [State.completeEnding_eq]
  simp [h]

theorem State.completeEnding_textOwed : (s.completeEnding st).textOwed = s.textOwed.set st.val none := by
  obtain ⟨o, h⟩ := s.withSessionEnd_spec st
  rw [State.completeEnding_eq, State.settleTextOwed_textOwed]
  simp [h]

@[simp] theorem State.tryComplete_deadlines : (s.tryComplete st).deadlines = s.deadlines := by
  unfold State.tryComplete
  split <;> simp

theorem State.tryComplete_session :
    (s.tryComplete st).session st = if s.endingComplete st then (s.session st).ended else s.session st := by
  unfold State.tryComplete
  split <;> simp

theorem State.endingComplete_iff : s.endingComplete st = true ↔ (s.session st).state = .ending
    ∧ (s.session st).waits = [] ∧ (s.session st).pendingResult = none ∧ s.outstanding st = false := by
  simp [State.endingComplete, and_assoc]

theorem State.tryComplete_of_not_ending (h : (s.session st).state ≠ .ending) : s.tryComplete st = s :=
  if_neg fun c => h ((s.endingComplete_iff st).1 c).1

variable {s st}

/-- A record that is ENDING with a cause, or back at IDLE with it, stays so as ENDING completes. -/
theorem Ends.tryComplete {before : Session} {cause : EndCause} (h : Ends before (s.session st) cause) :
    Ends before ((s.tryComplete st).session st) cause := by
  rw [State.tryComplete_session]
  split
  · rename_i c
    have ending := ((s.endingComplete_iff st).1 c).1
    rcases h with ⟨-, hc, ht, -⟩ | ⟨hi, -⟩
    · exact .inr ⟨rfl, hc, ht, rfl⟩
    · rw [hi] at ending; cases ending
  · exact h

theorem Ends.of_same {before after after' : Session} {cause : EndCause} (h : Ends before after cause)
    (e : after'.state = after.state ∧ after'.endCause = after.endCause ∧ after'.tag = after.tag
      ∧ after'.phase = after.phase ∧ after'.lastCause = after.lastCause ∧ after'.lastTag = after.lastTag) :
    Ends before after' cause := by
  obtain ⟨h1, h2, h3, h4, h5, h6⟩ := e
  rw [Ends, h1, h2, h3, h4, h5, h6]
  exact h

variable (s st)

/-- A session that enters ENDING is ENDING with the cause, or has completed at once (R19, R21). -/
theorem State.ends_enterEnding (cause : EndCause) : Ends (s.session st) ((s.enterEnding st cause).session st) cause :=
  by
  refine Ends.tryComplete ?_
  obtain ⟨w, b, c, h⟩ := (queuedFor_windDown ((s.modifySession st (Session.toEnding cause)).removeSessionDeadlines st) st).record
  rw [h]
  have e : ((s.modifySession st (Session.toEnding cause)).removeSessionDeadlines st).session st =
      (s.session st).toEnding cause := s.session_setSession st _
  rw [e]
  unfold Session.toEnding
  dsimp only
  split <;> exact .inl ⟨rfl, rfl, rfl, rfl⟩

theorem State.enterEnding_deadlineOf (cause : EndCause) {k : DeadlineKind} (h : k = .step ∨ k = .warn ∨ k = .key) :
    (s.enterEnding st cause).deadlineOf (.session st) k = none := by
  have e := (s.modifySession st (Session.toEnding cause)).deadlineOf_removeSessionDeadlines k st h
  rw [State.deadlineOf] at e ⊢
  rw [State.enterEnding, State.tryComplete_deadlines, (queuedFor_windDown _ st).deadlines]
  exact e

end Sys2Proof.Machine
end

section
/-! PROOFS. What the session engine makes of a record as a step delivers, as a result leaves the line and as a step
enters and ends STARTING; and what no operation of one station touches. -/

namespace Sys2Proof.Machine

variable (s : State) (st : Station)

/-! ### What an operation of one station leaves -/

/-- What stays outside one station. -/
structure StationFrame (st : Station) (s t : State) : Prop where
  session : ∀ y, y ≠ st → t.session y = s.session y
  device : ∀ p, stationOf p ≠ st → t.device p = s.device p
  supply : ∀ y, t.supply y = s.supply y
  counter : t.counter = s.counter
  tick : t.tick = s.tick
  store : SameStore s t

variable {s st}

theorem Edited.stationFrame {t : State} (e : Edited (.at st) s t) : StationFrame st s t :=
  ⟨fun _ h => e.session_eq h, fun _ h => e.device_eq h, fun _ => e.supply_eq not_false,
    (e.counter_eq not_false).1, e.untouched.tick, e.untouched.sameStore⟩

theorem StationFrame.beginNext {t : State} (h : StationFrame st s t) : StationFrame st s t.beginNext :=
  ⟨by simpa using h.session, by simpa using h.device, by simpa using h.supply, by simpa using h.counter,
    by simpa using h.tick, h.store.trans t.sameStore_beginNext⟩

theorem StationFrame.trans {t u : State} (h : StationFrame st s t) (g : StationFrame st t u) : StationFrame st s u :=
  ⟨fun y hy => (g.session y hy).trans (h.session y hy), fun p hp => (g.device p hp).trans (h.device p hp),
    fun y => (g.supply y).trans (h.supply y), g.counter.trans h.counter, g.tick.trans h.tick, h.store.trans g.store⟩

theorem supplies_eq_of_supply {s t : State} (h : ∀ st, t.supply st = s.supply st) : t.supplies = s.supplies :=
  Vector.ext fun i hi => h ⟨i, hi⟩

theorem sessions_eq_of_session {s t : State} (h : ∀ st, t.session st = s.session st) : t.sessions = s.sessions :=
  Vector.ext fun i hi => h ⟨i, hi⟩

theorem devices_eq_of_device {s t : State} (h : ∀ p, t.device p = s.device p) : t.devices = s.devices :=
  Vector.ext fun i hi => h ⟨i, hi⟩

/-- An item of no coalesced sort that is placed stays to be seen at the end of the event. -/
theorem Edited.shows_beginNext {A : Scope} {t : State} (e : Edited A s t) {i : Item} (hi : i.key = none)
    (h : i ∈ s.outbound) : t.beginNext.shows i :=
  t.shows_beginNext i (.inl (e.mem_outbound hi h))

variable (s st)

/-! ### What is outstanding (R14) -/

theorem State.mem_append (i : Item) : i ∈ (s.append i).outbound := by simp [State.append]

theorem State.outstanding_of_outbound {t : State}
    (ho : t.outbound.any (Item.isResultOf st) = s.outbound.any (Item.isResultOf st))
    (hs : t.sending = s.sending) : t.outstanding st = s.outstanding st := by
  rw [State.outstanding, State.outstanding, ho, State.sendingSuch, State.sendingSuch, hs]

theorem State.putProgress_outstanding (x : Station) : (s.putProgress st).outstanding x = s.outstanding x := by
  refine s.outstanding_of_outbound x ?_ (s.putProgress_sending st)
  unfold State.putProgress
  dsimp only
  split
  · exact any_isResultOf_coalesce _ _ _ _ rfl (fun _ _ => rfl) x
  · rfl

@[simp] theorem State.noteProgress_outstanding (x : Station) : (s.noteProgress st).outstanding x = s.outstanding x := by
  unfold State.noteProgress
  split
  all_goals first | exact s.putProgress_outstanding st x | rfl

/-! ### Delivery (R13 to R17) -/

@[simp] theorem State.removeSessionDeadlines_session (x : Station) :
    (s.removeSessionDeadlines st).session x = s.session x := rfl

@[simp] theorem State.removeSessionDeadlines_device (p : Port) :
    (s.removeSessionDeadlines st).device p = s.device p := rfl

@[simp] theorem State.removeSessionDeadlines_textOwed : (s.removeSessionDeadlines st).textOwed = s.textOwed := rfl

/-- A step on entry to DELIVERING, before its result is offered (R12, R13). -/
def State.toDelivering (s : State) (st : Station) : State :=
  ((s.removeSessionDeadlines st).modifySession st fun r => { r with phase := some .delivering }).noteProgress st

theorem State.toDelivering_session :
    (s.toDelivering st).session st = { s.session st with phase := some .delivering } := by
  rw [State.toDelivering, State.noteProgress_session, State.modifySession_eq, State.session_setSession,
    State.removeSessionDeadlines_session]

theorem State.toDelivering_outstanding (x : Station) : (s.toDelivering st).outstanding x = s.outstanding x :=
  State.noteProgress_outstanding _ st x

theorem State.toDelivering_deadlines : (s.toDelivering st).deadlines = (s.removeSessionDeadlines st).deadlines :=
  State.noteProgress_deadlines _ st

theorem State.offerResult_session (r : StepResult) : (s.offerResult st r).session st =
    if s.outstanding st then { s.session st with pendingResult := some r }
    else { (s.session st).discardEntry with pendingResult := none } := by
  unfold State.offerResult
  split
  · exact s.session_setSession st _
  · exact (s.append _).session_setSession st _

@[simp] theorem State.offerResult_deadlines (r : StepResult) : (s.offerResult st r).deadlines = s.deadlines := by
  unfold State.offerResult
  split <;> rfl

/-- The result of a step that delivers is offered when the record names its session and its step (R13). -/
theorem State.deliver_cases (data : ResultData) :
    (∃ tag i, (s.session st).tag = some tag ∧ (s.session st).index = some i
        ∧ s.deliver st data = (s.toDelivering st).offerResult st ⟨st, tag, i, data⟩)
      ∨ (((s.session st).tag = none ∨ (s.session st).index = none) ∧ s.deliver st data = s.toDelivering st) := by
  have e : s.deliver st data = match ((s.toDelivering st).session st).tag, ((s.toDelivering st).session st).index with
    | some tag, some index => (s.toDelivering st).offerResult st ⟨st, tag, index, data⟩
    | _, _ => s.toDelivering st := rfl
  rw [e, State.toDelivering_session]
  dsimp only
  cases ht : (s.session st).tag with
  | none => exact .inr ⟨.inl rfl, rfl⟩
  | some tag =>
    cases hi : (s.session st).index with
    | none => exact .inr ⟨.inr rfl, rfl⟩
    | some i => exact .inl ⟨tag, i, rfl, rfl, rfl⟩

/-- A step that delivers: DELIVERING, with its result pending or placed. -/
theorem State.deliver_session (data : ResultData) : ∃ e c b p, (s.deliver st data).session st =
    { s.session st with
      phase := some .delivering, entryBuffer := e, concealedCount := c, sealedBlock := b, pendingResult := p } := by
  rcases s.deliver_cases st data with ⟨tag, i, -, -, e⟩ | ⟨-, e⟩
  · rw [e, State.offerResult_session, State.toDelivering_session]
    split <;> exact ⟨_, _, _, _, rfl⟩
  · rw [e, State.toDelivering_session]
    exact ⟨_, _, _, _, rfl⟩

variable {s st}

section Delivered

variable {tag i : Nat} (ht : (s.session st).tag = some tag) (hi : (s.session st).index = some i) (data : ResultData)
include ht hi

theorem State.deliver_of_tag : s.deliver st data = (s.toDelivering st).offerResult st ⟨st, tag, i, data⟩ := by
  rcases s.deliver_cases st data with ⟨tag', i', ht', hi', e⟩ | ⟨n | n, -⟩
  · rw [ht] at ht'
    rw [hi] at hi'
    cases ht'
    cases hi'
    exact e
  · rw [ht] at n; cases n
  · rw [hi] at n; cases n

/-- With nothing outstanding the result is placed. -/
theorem State.mem_deliver (h : s.outstanding st = false) : .stepResult ⟨st, tag, i, data⟩ ∈ (s.deliver st data).outbound :=
  by
  rw [State.deliver_of_tag ht hi, State.offerResult, if_neg]
  · exact State.mem_append _ _
  · rw [State.toDelivering_outstanding]
    exact Bool.eq_false_iff.1 h

/-- With a result outstanding it is pending, and the entry data stay in the record. -/
theorem State.deliver_pending (h : s.outstanding st = true) : (s.deliver st data).session st =
    { s.session st with phase := some .delivering, pendingResult := some ⟨st, tag, i, data⟩ } := by
  rw [State.deliver_of_tag ht hi, State.offerResult_session, State.toDelivering_outstanding, if_pos h,
    State.toDelivering_session]

end Delivered

variable (s st)

theorem State.deliver_deadlineOf (data : ResultData) {k : DeadlineKind} (h : k = .step ∨ k = .warn ∨ k = .key) :
    (s.deliver st data).deadlineOf (.session st) k = none := by
  have g : (s.deliver st data).deadlines = (s.removeSessionDeadlines st).deadlines := by
    rcases s.deliver_cases st data with ⟨tag, i, -, -, e⟩ | ⟨-, e⟩
    · rw [e, State.offerResult_deadlines, State.toDelivering_deadlines]
    · rw [e, State.toDelivering_deadlines]
  rw [State.deadlineOf, g]
  exact s.deadlineOf_removeSessionDeadlines k st h

/-- Placing a pending result: what it clears in the record. -/
theorem State.placePending_session : ∃ e c b p, (s.placePending st).session st =
    { s.session st with entryBuffer := e, concealedCount := c, sealedBlock := b, pendingResult := p } := by
  unfold State.placePending State.placeResult
  split
  · split
    · exact ⟨_, _, _, _, rfl⟩
    · exact ⟨_, _, _, _, (s.append _).session_setSession st _⟩
  · exact ⟨_, _, _, _, rfl⟩

variable {s st}

theorem State.placePending_of_none (h : (s.session st).pendingResult = none) : s.placePending st = s := by
  rw [State.placePending, h]

theorem State.placePending_of_free {r : StepResult} (h : (s.session st).pendingResult = some r)
    (free : s.outstanding st = false) : s.placePending st = s.placeResult st r := by
  rw [State.placePending, h]
  exact if_neg (by simp [free])

/-- A session that has ended stays so as the station's line becomes free. -/
theorem Ends.stationLineFree {before : Session} {cause : EndCause} (h : Ends before (s.session st) cause) :
    Ends before ((s.stationLineFree st).session st) cause := by
  obtain ⟨_, _, _, _, e⟩ := s.placePending_session st
  exact (h.of_same (by rw [e]; exact ⟨rfl, rfl, rfl, rfl, rfl, rfl⟩)).tryComplete

variable (s st)

/-! ### The phases of a step (R8 to R11) -/

theorem queuedFor_queueSetup (x : StepRecord) : QueuedFor st s (s.queueSetup st x) := by
  have reader : QueuedFor st s ((s.sessionAwait st (readerOf st) .intakeOn .setup).modifySession st
      fun r => { r with readerIntake := true }) := queuedFor_step s st true _ _ _ _ fun _ => ⟨_, _, rfl⟩
  unfold State.queueSetup
  dsimp only
  split
  · split
    · exact reader.trans (queuedFor_await _ st _ _ _)
    · exact reader
  · exact queuedFor_await s st _ _ _
  · exact (queuedFor_await s st _ _ _).trans (queuedFor_step _ st true _ _ _ _ fun _ => ⟨_, _, rfl⟩)
  · split
    · exact .refl s st
    · exact queuedFor_await s st _ _ _
  · exact queuedFor_await s st _ _ _

theorem State.placeStepDeadlines_spec (k : StepKind) : ∃ l, s.placeStepDeadlines st k = { s with deadlines := l } := by
  unfold State.placeStepDeadlines
  dsimp only
  split <;> split <;> exact ⟨_, rfl⟩

@[simp] theorem State.placeStepDeadlines_session (k : StepKind) (x : Station) :
    (s.placeStepDeadlines st k).session x = s.session x := by
  obtain ⟨l, h⟩ := s.placeStepDeadlines_spec st k
  rw [h]
  rfl

theorem State.placeStepDeadlines_blocked (k : StepKind) (j : StepKind) :
    (s.placeStepDeadlines st k).blocked st j = s.blocked st j := by
  obtain ⟨l, h⟩ := s.placeStepDeadlines_spec st k
  rw [h]
  rfl

/-- The phase at the end of STARTING, by the blocking condition (R10). -/
def State.phaseAfterStarting (s : State) (st : Station) (k : StepKind) : Phase :=
  if s.blocked st k then .waitingClear else .active

theorem State.phaseAfterStarting_ne (k : StepKind) : s.phaseAfterStarting st k ≠ .delivering := by
  unfold State.phaseAfterStarting
  split <;> simp

variable {s st}

theorem State.endStarting_of_step {x : StepRecord} (h : (s.session st).step? = some x) : s.endStarting st =
    ((s.placeStepDeadlines st x.kind).modifySession st fun r =>
      { r with phase := some (s.phaseAfterStarting st x.kind) }).noteProgress st := by
  unfold State.endStarting State.phaseAfterStarting
  rw [h]
  dsimp only
  rw [State.placeStepDeadlines_blocked]

/-- The end of STARTING: the phase by the blocking condition (R10). -/
theorem State.endStarting_session {x : StepRecord} (h : (s.session st).step? = some x) : (s.endStarting st).session st =
    { s.session st with phase := some (s.phaseAfterStarting st x.kind) } := by
  rw [State.endStarting_of_step h, State.noteProgress_session, State.modifySession_eq, State.session_setSession,
    State.placeStepDeadlines_session]

variable (s st)

@[simp] theorem State.endStarting_devices : (s.endStarting st).devices = s.devices := by
  cases h : (s.session st).step? with
  | none => unfold State.endStarting; rw [h]
  | some x =>
    obtain ⟨l, hl⟩ := s.placeStepDeadlines_spec st x.kind
    rw [State.endStarting_of_step h, State.noteProgress_devices, hl]
    rfl

/-- A station at the entry to STARTING of step i, before its setup commands (R8). -/
def State.toStarting (s : State) (st : Station) (i : Nat) : State :=
  (s.modifySession st (Session.toStarting i)).noteProgress st

@[simp] theorem State.toStarting_session (i : Nat) : (s.toStarting st i).session st = (s.session st).toStarting i := by
  rw [State.toStarting, State.noteProgress_session]
  exact s.session_setSession st _

@[simp] theorem State.toStarting_device (i : Nat) (p : Port) : (s.toStarting st i).device p = s.device p :=
  State.noteProgress_device _ st p

/-- A record that has entered STARTING of step i and gone on from there, without delivering. -/
def Session.Started (i : Nat) (r t : Session) : Prop :=
  ∃ w b c ph, ph ≠ Phase.delivering
    ∧ t = { r.toStarting i with waits := w, readerIntake := b, concealedOpen := c, phase := some ph }

variable {s st}

section Entered

variable {i : Nat} {x : StepRecord} (h : ((s.session st).toStarting i).step? = some x)
include h

theorem State.enterStarting_of_step : s.enterStarting st i =
    if ((s.session st).toStarting i).policyConflict x.kind then (s.toStarting st i).enterEnding st .policyConflict
    else if ((((s.toStarting st i).queueSetup st x).session st).waits.isEmpty) = true then
      ((s.toStarting st i).queueSetup st x).endStarting st
    else (s.toStarting st i).queueSetup st x := by
  have e : s.enterStarting st i = match ((s.toStarting st i).session st).step? with
    | none => s.toStarting st i
    | some x =>
      if ((s.toStarting st i).session st).policyConflict x.kind then (s.toStarting st i).enterEnding st .policyConflict
      else if ((((s.toStarting st i).queueSetup st x).session st).waits.isEmpty) = true then
        ((s.toStarting st i).queueSetup st x).endStarting st
      else (s.toStarting st i).queueSetup st x := rfl
  rw [e, State.toStarting_session, h]

/-- A step that enters STARTING with no conflict of bounds (R8 to R10). -/
theorem State.enterStarting_session (ok : ((s.session st).toStarting i).policyConflict x.kind = false) :
    (s.session st).Started i ((s.enterStarting st i).session st)
      ∧ ∀ p, ((s.enterStarting st i).device p).state = (s.device p).state := by
  have q := queuedFor_queueSetup (s.toStarting st i) st x
  obtain ⟨w, b, c, hr⟩ := q.record
  rw [State.toStarting_session] at hr
  have hs : ∀ p, (((s.toStarting st i).queueSetup st x).device p).state = (s.device p).state := fun p => by
    rw [q.state, State.toStarting_device]
  rw [State.enterStarting_of_step h, if_neg (by simp [ok])]
  split
  · have hx : (((s.toStarting st i).queueSetup st x).session st).step? = some x := by rw [hr]; exact h
    rw [State.endStarting_session hx, hr]
    refine ⟨⟨w, b, c, _, State.phaseAfterStarting_ne _ _ _, rfl⟩, fun p => ?_⟩
    rw [State.device, State.endStarting_devices]
    exact hs p
  · rw [hr]
    exact ⟨⟨w, b, c, .starting, by simp, rfl⟩, hs⟩

/-- A step whose bounds conflict with the card ends the session as it would enter STARTING (R44). -/
theorem State.enterStarting_conflict (conflict : ((s.session st).toStarting i).policyConflict x.kind = true) :
    Ends (s.session st) ((s.enterStarting st i).session st) .policyConflict := by
  rw [State.enterStarting_of_step h, if_pos conflict]
  have g := (s.toStarting st i).ends_enterEnding st .policyConflict
  rw [State.toStarting_session] at g
  exact g

end Entered

end Sys2Proof.Machine
end

section
/-! PROOFS. The commands on a session (R3 to R6, R23, R103 to R105). -/

namespace Sys2Proof.Machine

variable (s : State) (st : Station) (f : Frame)

/-! ### Commands that answer and go on (R187) -/

section Answered

variable {s f} {i : Instr} {owner : State → State} (hi : exec i s = commandRow f owner s) (ht : s.takesNow f)
  {o : ReplyOutcome} {a : Bool} {data : List Byte} (g : State → State)
  (e : owner s.takeHead = g (s.takeHead.answer f o a data))
include hi ht e

/-- A taken command whose owner places its reply and goes on from there. -/
theorem exec_of_reply {k : Byte} (hk : f.kind ||| 0x80 = k := by simp) :
    exec i s = .next ((g (s.takeHead.append (.reply f.sequence k o a data))).whole s) := by
  rw [hi, commandRow_taken s f owner ht, e, State.answer_eq _ _ _ _ _ hk]

/-- The same where the counter's state is left. -/
theorem exec_of_reply_same {k : Byte}
    (hc : (g (s.takeHead.append (.reply f.sequence k o a data))).counter = s.counter)
    (hk : f.kind ||| 0x80 = k := by simp) :
    exec i s = .next (g (s.takeHead.append (.reply f.sequence k o a data))).beginNext := by
  rw [exec_of_reply hi ht g e hk, State.whole_of_same _ _ hc]

end Answered

/-! ### CANCEL-SESSION (R23) -/

theorem stationFrame_taken (i : Item) : StationFrame st s (s.takeHead.append i) := by
  constructor <;> simp [State.append, State.session, State.device, State.supply, SameStore]

variable {s st f}

theorem State.cancelSession_of_station {b : Byte} {tag : Nat} (hb : stationOfByte b = some st) (ht : tag ≠ 0) :
    s.cancelSession f (b, tag) = s.cancelAt f st tag := by
  unfold State.cancelSession
  simp only [hb, if_neg ht]

section Choice

variable {r : Session} {tag : Nat}

theorem Session.cancelChoice_ending (h : r.state = .running) (ht : r.tag = some tag) (hp : r.phase ≠ some .delivering) :
    r.cancelChoice tag = .ending := by simp [Session.cancelChoice, h, ht, hp]

theorem Session.cancelChoice_deferred (h : r.state = .running) (ht : r.tag = some tag) (hp : r.phase = some .delivering)
    (hl : r.lastStep = false) (hc : r.cardRefused = false) (hd : r.deferredCause = none) :
    r.cancelChoice tag = .deferred := by simp [Session.cancelChoice, h, ht, hp, hl, hc, hd]

theorem Session.cancelChoice_late (h : r.state = .running) (ht : r.tag = some tag) (hp : r.phase = some .delivering)
    (late : r.lastStep = true ∨ r.cardRefused = true ∨ r.deferredCause ≠ none) : r.cancelChoice tag = .tooLate := by
  have : (r.deferredCause.isSome || r.lastStep || r.cardRefused) = true := by
    rcases late with h | h | h
    · simp [h]
    · simp [h]
    · simp [Option.isSome_iff_ne_none.2 h]
  simp [Session.cancelChoice, h, ht, hp, this]

theorem Session.cancelChoice_of_ending (h : r.state = .ending) (ht : r.tag = some tag) : r.cancelChoice tag = .tooLate :=
  by
  simp [Session.cancelChoice, h, ht]

theorem Session.cancelChoice_of_idle (h : r.state = .idle) (ht : r.lastTag = some tag) : r.cancelChoice tag = .tooLate :=
  by
  simp [Session.cancelChoice, h, ht]

theorem Session.cancelChoice_other (h : r.state ≠ .idle) (ht : r.tag ≠ some tag) : r.cancelChoice tag = .notFound := by
  unfold Session.cancelChoice
  split <;> simp_all

theorem Session.cancelChoice_idle (h : r.state = .idle) (ht : r.lastTag ≠ some tag) : r.cancelChoice tag = .notFound :=
  by
  simp [Session.cancelChoice, h, ht]

end Choice

section CancelAt

variable {tag : Nat}

theorem State.cancelAt_ending (h : (s.session st).cancelChoice tag = .ending) :
    s.cancelAt f st tag = (s.answer f .done false []).enterEnding st .cancelledWorkstation := by
  rw [State.cancelAt, h]

theorem State.cancelAt_deferred (h : (s.session st).cancelChoice tag = .deferred) : s.cancelAt f st tag =
    (s.answer f .done false []).modifySession st fun r => { r with deferredCause := some .cancelledWorkstation } := by
  rw [State.cancelAt, h]

theorem State.cancelAt_tooLate (h : (s.session st).cancelChoice tag = .tooLate) :
    s.cancelAt f st tag = s.answer f .tooLate false [] := by rw [State.cancelAt, h]; rfl

theorem State.cancelAt_notFound (h : (s.session st).cancelChoice tag = .notFound) :
    s.cancelAt f st tag = s.answer f .notFound false [] := by rw [State.cancelAt, h]; rfl

end CancelAt

/-- Settles O7, a row of the table at a time. -/
theorem cancelSessionByTheTable : Obligations.CancelSessionByTheTable := by
  intro s q b tag payload st ht hx hb h0 r refused
  have row := exec_cancelSession s q payload hx
  have same : ∀ {c}, r.cancelChoice tag = c → (s.takeHead.session st).cancelChoice tag = c := by
    rw [State.takeHead_session]; exact id
  have taken : ∀ {t}, s.takeHead.cancelAt ⟨0x02, q, payload⟩ st tag = t →
      s.takeHead.cancelSession ⟨0x02, q, payload⟩ (b, tag) = t := (State.cancelSession_of_station hb h0).trans
  have late : r.cancelChoice tag = .tooLate → refused .tooLate := fun c =>
    exec_of_answer row ht (taken (State.cancelAt_tooLate (same c)))
  have notFound : r.cancelChoice tag = .notFound → refused .notFound := fun c =>
    exec_of_answer row ht (taken (State.cancelAt_notFound (same c)))
  refine ⟨fun hr htag hp => ?_, fun hr htag hp hl hc hd => ?_,
    fun hr htag hp h => late (Session.cancelChoice_late hr htag hp h),
    fun hr htag => late (Session.cancelChoice_of_ending hr htag), fun hr htag => late (Session.cancelChoice_of_idle hr htag),
    fun hr htag => notFound (Session.cancelChoice_other hr htag),
    fun hr htag => notFound (Session.cancelChoice_idle hr htag)⟩
  · have e := edited_enterEnding (s.takeHead.append (.reply q 0x82 .done false [])) st .cancelledWorkstation
    have frame := ((stationFrame_taken s st _).trans e.stationFrame).beginNext
    have ends := (s.takeHead.append (.reply q 0x82 .done false [])).ends_enterEnding st .cancelledWorkstation
    rw [State.append_session, State.takeHead_session] at ends
    exact ⟨_, exec_of_reply_same row ht (fun u => u.enterEnding st .cancelledWorkstation)
      (taken (State.cancelAt_ending (same (Session.cancelChoice_ending hr htag hp))))
      ((e.counter_eq not_false).1.trans s.takeHead_counter), by rwa [State.beginNext_session],
      e.shows_beginNext rfl (State.mem_append _ _), frame.session, frame.supply, frame.counter, frame.tick, frame.store⟩
  · exact exec_of_reply_same row ht
      (fun u => u.modifySession st fun r => { r with deferredCause := some .cancelledWorkstation })
      (taken (State.cancelAt_deferred (same (Session.cancelChoice_deferred hr htag hp hl hc hd)))) s.takeHead_counter

/-! ### OPEN-SESSION (R3 to R6) -/

theorem State.openRefusal_takeHead (s : State) (st : Station) (tag : Nat) (l : List StepRecord) :
    s.takeHead.openRefusal st tag l = s.openRefusal st tag l := by
  simp [State.openRefusal, State.canServe, State.device]

/-- Settles O6. -/
theorem openSessionIsRefusedInOrder : Obligations.OpenSessionIsRefusedInOrder := by
  intro s q payload ht refused
  refine ⟨fun hx => commandRow_of_none hx _ ht, fun x hx => ?_⟩
  have row := exec_openSession s q payload hx
  refine ⟨fun none => exec_of_answer row ht ?_, fun st hst => ?_⟩
  · unfold State.openSession
    rw [none]
    rfl
  · have refuse : ∀ {o}, s.openRefusal st x.tag (normaliseSteps s.settings.defaultStepTime x.steps).value = some o →
        refused o := fun {o} h => exec_of_answer row ht (by
      have h' : s.takeHead.openRefusal st x.tag (normaliseSteps s.takeHead.settings.defaultStepTime x.steps).value = some o := by
        rw [State.openRefusal_takeHead, State.takeHead_settings, h]
      unfold State.openSession
      simp only [hst, h']
      rfl)
    unfold State.openRefusal at refuse
    exact ⟨fun hb => refuse (if_pos hb),
      fun hb hc => refuse (by rw [if_neg hb, if_pos hc]),
      fun hb hc hi => refuse (by rw [if_neg hb, if_neg (not_not.2 hc), if_pos hi]),
      fun hb hc hi hs => refuse (by rw [if_neg hb, if_neg (not_not.2 hc), if_neg (not_not.2 hi), if_neg (by simp [hs])])⟩

/-- A record just taken, for which no bounds come from a card. -/
theorem Session.policyConflict_taken (r : Session) (tag : Nat) (mode : ProgressMode) {x : StepRecord}
    {l : List StepRecord} (h : stepsAllowed false (x :: l) = true) :
    ((r.taken tag mode (x :: l)).toStarting 1).policyConflict x.kind = false := by
  have allowed : x.allowed false = true := by
    rw [stepsAllowed, Bool.and_eq_true] at h
    exact h.1
  obtain ⟨prompt, kind⟩ := x
  cases kind with
  | card => rfl
  | confirm => rfl
  | showText => rfl
  | entry mode lo hi bounds =>
    cases mode with
    | plain => rfl
    | concealed =>
      simp only [StepRecord.allowed, Bool.and_eq_true, decide_eq_true_eq] at allowed
      cases bounds with
      | false => exact decide_eq_false (Nat.not_lt.2 allowed.1)
      | true => exact decide_eq_false (Nat.not_lt.2 allowed.1)

variable (s st)

theorem edited_engageNeeded_at (l : List StepRecord) : Edited (.at st) s (s.engageNeeded st l) := by
  have e : Edited (.at st) s (if needsReader l then s.engage (readerOf st) else s) :=
    edited_ite (edited_engage _ _ (Scope.at_reader st)) .refl
  exact e.trans (edited_ite (edited_engage _ _ (Scope.at_keypad st)) .refl)

/-- The needed devices become ENGAGED and the others stay (R6, R120). -/
theorem State.engageNeeded_spec (l : List StepRecord) :
    (s.engageNeeded st l).session st = s.session st
      ∧ ((s.engageNeeded st l).device (readerOf st)).state =
        (if needsReader l then .engaged else (s.device (readerOf st)).state)
      ∧ ((s.engageNeeded st l).device (keypadOf st)).state =
        (if needsKeypad l then .engaged else (s.device (keypadOf st)).state) := by
  have reader := fun (t : State) => t.changePort_device_of_ne (keypadOf st) .engaged .engaged (readerOf_ne_keypadOf st st)
  have keypad := fun (t : State) =>
    t.changePort_device_of_ne (readerOf st) .engaged .engaged (readerOf_ne_keypadOf st st).symm
  unfold State.engageNeeded State.engage
  split <;> split <;> simp [reader, keypad]

variable {s st}

theorem State.openSession_of_served {x : OpenRequest} (hst : stationOfByte x.station = some st)
    (ok : s.openRefusal st x.tag (normaliseSteps s.settings.defaultStepTime x.steps).value = none) :
    s.openSession f x = s.takeSession f st x.tag x.mode (normaliseSteps s.settings.defaultStepTime x.steps) := by
  unfold State.openSession
  simp only [hst, ok]

/-- A session taken: its record, its devices engaged, and its first step's entry to STARTING (R6). -/
def State.startSession (s : State) (st : Station) (tag : Nat) (mode : ProgressMode) (l : List StepRecord) : State :=
  ((s.modifySession st fun r => r.taken tag mode l).engageNeeded st l).enterStarting st 1

theorem State.takeSession_eq (st : Station) (tag : Nat) (mode : ProgressMode) (l : Adjusted (List StepRecord)) :
    s.takeSession f st tag mode l = (s.answer f .done l.adjusted []).startSession st tag mode l.value := rfl

variable (s st)

theorem edited_startSession (tag : Nat) (mode : ProgressMode) (l : List StepRecord) :
    Edited (.at st) s (s.startSession st tag mode l) :=
  ((edited_modifySession s st _).trans (edited_engageNeeded_at _ _ _)).trans (edited_enterStarting _ st 1)

theorem State.startSession_spec (tag : Nat) (mode : ProgressMode) {l : List StepRecord} (h : 1 ≤ l.length)
    (allowed : stepsAllowed false l = true) :
    ((s.session st).taken tag mode l).Started 1 ((s.startSession st tag mode l).session st)
      ∧ ((s.startSession st tag mode l).device (readerOf st)).state =
        (if needsReader l then .engaged else (s.device (readerOf st)).state)
      ∧ ((s.startSession st tag mode l).device (keypadOf st)).state =
        (if needsKeypad l then .engaged else (s.device (keypadOf st)).state) := by
  obtain ⟨x, rest, rfl⟩ := List.exists_cons_of_length_pos h
  obtain ⟨hr, reader, keypad⟩ :=
    (s.modifySession st fun r => r.taken tag mode (x :: rest)).engageNeeded_spec st (x :: rest)
  rw [State.modifySession_eq, State.session_setSession] at hr
  have first : ((((s.modifySession st fun r => r.taken tag mode (x :: rest)).engageNeeded st (x :: rest)).session
      st).toStarting 1).step? = some x := by rw [State.modifySession_eq, hr]; rfl
  have started := State.enterStarting_session first (by
    rw [State.modifySession_eq, hr]
    exact (s.session st).policyConflict_taken tag mode allowed)
  rw [State.modifySession_eq, hr] at started
  exact ⟨started.1, (started.2 _).trans reader, (started.2 _).trans keypad⟩

/-- Settles O5. -/
theorem openSessionTakesTheSession : Obligations.OpenSessionTakesTheSession := by
  intro s q payload x st ht hx hst l h0 h1 h4 hs hc hi hserve
  have ok : s.takeHead.openRefusal st x.tag l.value = none := by
    have good : ¬(x.tag = 0 ∨ l.value.length = 0 ∨ 4 < l.value.length ∨ stepsAllowed false l.value = false) := by
      rw [hs]; simp only [h0, Bool.true_eq_false, or_false, false_or]; omega
    rw [State.openRefusal_takeHead, State.openRefusal, if_neg good, if_neg (not_not.2 hc), if_neg (not_not.2 hi),
      if_pos hserve]
  have same : l = normaliseSteps s.takeHead.settings.defaultStepTime x.steps := by rw [State.takeHead_settings]
  rw [same] at ok
  have taken := State.openSession_of_served (f := ⟨0x01, q, payload⟩) hst ok
  rw [← same, State.takeSession_eq] at taken
  have e := edited_startSession (s.takeHead.append (.reply q 0x81 .done l.adjusted [])) st x.tag x.mode l.value
  have frame := ((stationFrame_taken s st _).trans e.stationFrame).beginNext
  have row := exec_of_reply_same (exec_openSession s q payload hx) ht (fun u => u.startSession st x.tag x.mode l.value)
    taken ((e.counter_eq not_false).1.trans s.takeHead_counter)
  obtain ⟨⟨w, b, c, ph, -, record⟩, reader, keypad⟩ :=
    (s.takeHead.append (.reply q 0x81 .done l.adjusted [])).startSession_spec st x.tag x.mode h1 hs
  have device : ∀ p, (s.takeHead.append (.reply q 0x81 .done l.adjusted [])).device p = s.device p := fun p => by
    simp [State.device]
  rw [State.append_session, State.takeHead_session] at record
  rw [device] at reader keypad
  refine ⟨_, row, ?_, ?_, ?_, ?_, ?_, ?_, ?_, ?_, e.shows_beginNext rfl (State.mem_append _ _), ?_, ?_, frame.session,
    frame.device, frame.supply, frame.counter, frame.tick, frame.store⟩
  case refine_9 => rw [State.beginNext_device]; exact reader
  case refine_10 => rw [State.beginNext_device]; exact keypad
  all_goals
    rw [State.beginNext_session, record]
    simp [Session.toStarting, Session.taken, Session.discardEntry, Session.blank]

/-! ### EXTEND-STEP (R103 to R105) -/

theorem State.moveWarning_spec (ticks : Nat) (t : Tick) : ∃ l, s.moveWarning st ticks t = { s with deadlines := l } :=
  by
  unfold State.moveWarning
  dsimp only
  split
  · exact ⟨_, rfl⟩
  · split <;> exact ⟨_, rfl⟩

/-- Moving the warning moves no other entry (R105). -/
theorem State.moveWarning_deadlineOf_of_ne (ticks : Nat) (t : Tick) {k : DeadlineKind} (h : k ≠ .warn) :
    (s.moveWarning st ticks t).deadlineOf (.session st) k = s.deadlineOf (.session st) k := by
  have place := fun x => s.deadlineOf_placeDeadlineAt_of_ne (.session st) (.session st) .warn k x fun e => h e.2
  unfold State.moveWarning
  dsimp only
  split
  · exact place _
  · split
    · exact place _
    · rfl

variable {s st}

theorem State.moveWarning_of_some {w : Tick} (h : s.deadlineOf (.session st) .warn = some w) (ticks : Nat) (t : Tick) :
    (s.moveWarning st ticks t).deadlineOf (.session st) .warn = some (ahead w ticks) := by
  unfold State.moveWarning
  rw [h]
  exact s.deadlineOf_placeDeadlineAt _ _ _

theorem State.moveWarning_of_none (h : s.deadlineOf (.session st) .warn = none) (ticks : Nat) (t : Tick) :
    (s.moveWarning st ticks t).deadlineOf (.session st) .warn =
      if (s.session st).warned = false ∧ s.settings.warnLead ≠ 0 ∧ s.settings.warnLead * 100 < distance s.tick t then
        some (t - BitVec.ofNat 32 (s.settings.warnLead * 100))
      else none := by
  unfold State.moveWarning
  rw [h]
  dsimp only
  by_cases c : (s.session st).warned = false ∧ s.settings.warnLead ≠ 0
      ∧ s.settings.warnLead * Config.ticksPerTenth < distance s.tick t
  · have c' : (s.session st).warned = false ∧ s.settings.warnLead ≠ 0 ∧ s.settings.warnLead * 100 < distance s.tick t := c
    rw [if_pos c, if_pos c']
    exact s.deadlineOf_placeDeadlineAt _ _ _
  · have c' : ¬((s.session st).warned = false ∧ s.settings.warnLead ≠ 0
        ∧ s.settings.warnLead * 100 < distance s.tick t) := c
    rw [if_neg c, if_neg c']
    exact h

@[simp] theorem ahead_zero (t : Tick) : ahead t 0 = t := by simp [ahead]

section Extended

variable {d : Tick} (h : s.deadlineOf (.session st) .step = some d) (granted : Nat)
include h

theorem State.extendDeadlines_of_pos (pos : granted ≠ 0) : s.extendDeadlines st granted =
    (s.placeDeadlineAt (.session st) .step (ahead d (granted * 100))).moveWarning st (granted * 100)
      (ahead d (granted * 100)) := by
  unfold State.extendDeadlines
  rw [h]
  exact if_neg pos

theorem State.extendDeadlines_zero : s.extendDeadlines st 0 = s := by
  unfold State.extendDeadlines
  rw [h]
  rfl

theorem State.extendDeadlines_spec : ∃ l, s.extendDeadlines st granted = { s with deadlines := l } := by
  by_cases pos : granted = 0
  · subst pos
    exact ⟨_, State.extendDeadlines_zero h⟩
  · obtain ⟨l, e⟩ := (s.placeDeadlineAt (.session st) .step (ahead d (granted * 100))).moveWarning_spec st
      (granted * 100) (ahead d (granted * 100))
    exact ⟨l, by rw [State.extendDeadlines_of_pos h _ pos, e]; rfl⟩

theorem State.extendDeadlines_step :
    (s.extendDeadlines st granted).deadlineOf (.session st) .step = some (ahead d (granted * 100)) := by
  by_cases pos : granted = 0
  · subst pos
    rw [State.extendDeadlines_zero h, h, Nat.zero_mul, ahead_zero]
  · rw [State.extendDeadlines_of_pos h _ pos, State.moveWarning_deadlineOf_of_ne _ _ _ _ (by simp),
      State.deadlineOf_placeDeadlineAt]

theorem State.extendDeadlines_key :
    (s.extendDeadlines st granted).deadlineOf (.session st) .key = s.deadlineOf (.session st) .key := by
  by_cases pos : granted = 0
  · subst pos
    rw [State.extendDeadlines_zero h]
  · rw [State.extendDeadlines_of_pos h _ pos, State.moveWarning_deadlineOf_of_ne _ _ _ _ (by simp),
      State.deadlineOf_placeDeadlineAt_of_ne _ _ _ _ _ _ (by simp)]

theorem State.extendDeadlines_warn_of_some (pos : granted ≠ 0) {w : Tick}
    (hw : s.deadlineOf (.session st) .warn = some w) :
    (s.extendDeadlines st granted).deadlineOf (.session st) .warn = some (ahead w (granted * 100)) := by
  rw [State.extendDeadlines_of_pos h _ pos]
  exact State.moveWarning_of_some (by rw [State.deadlineOf_placeDeadlineAt_of_ne _ _ _ _ _ _ (by simp), hw]) _ _

theorem State.extendDeadlines_warn_of_none (pos : granted ≠ 0) (hw : s.deadlineOf (.session st) .warn = none) :
    (s.extendDeadlines st granted).deadlineOf (.session st) .warn =
      if (s.session st).warned = false ∧ s.settings.warnLead ≠ 0
          ∧ s.settings.warnLead * 100 < distance s.tick (ahead d (granted * 100)) then
        some (ahead d (granted * 100) - BitVec.ofNat 32 (s.settings.warnLead * 100))
      else none := by
  rw [State.extendDeadlines_of_pos h _ pos]
  exact State.moveWarning_of_none (by rw [State.deadlineOf_placeDeadlineAt_of_ne _ _ _ _ _ _ (by simp), hw]) _ _

end Extended

theorem Session.extendRefusal_none {r : Session} {tag : Nat} {x : StepRecord} (hr : r.state = .running)
    (ht : r.tag = some tag) (hp : r.phase = some .waitingClear ∨ r.phase = some .active) (hx : r.step? = some x)
    (show_ : x.kind.isShow = false) : r.extendRefusal tag = none := by
  rcases hp with hp | hp <;> simp [Session.extendRefusal, hr, ht, hp, hx, show_]

theorem State.extendStep_of_granted {b : Byte} {tag amount : Nat} (hb : stationOfByte b = some st) (h0 : tag ≠ 0)
    (ok : (s.session st).extendRefusal tag = none) : s.extendStep f (b, tag, amount) = s.extendGranted f st amount := by
  unfold State.extendStep
  simp only [hb, if_neg h0, ok]

/-- What a granted EXTEND-STEP does: the deadlines, the extension, and then the reply (R104). -/
def State.extended (s : State) (st : Station) (granted : Nat) : State :=
  (s.extendDeadlines st granted).modifySession st fun r => { r with extension := r.extension + granted }

theorem State.extended_deadlineOf (granted : Nat) (o : Owner) (k : DeadlineKind) :
    (s.extended st granted).deadlineOf o k = (s.extendDeadlines st granted).deadlineOf o k := rfl

theorem State.extended_spec {d : Tick} (h : s.deadlineOf (.session st) .step = some d) (granted : Nat) :
    ∃ l, s.extended st granted = { s.setSession st
      { s.session st with extension := (s.session st).extension + granted } with deadlines := l } := by
  obtain ⟨l, e⟩ := State.extendDeadlines_spec h granted
  exact ⟨l, by rw [State.extended, e]; rfl⟩

theorem State.extendGranted_eq (s : State) (f : Frame) (st : Station) (amount : Nat) : s.extendGranted f st amount =
    (s.extended st ((s.session st).grant (clamp 1 600 amount).value)).answer f .done
      ((clamp 1 600 amount).adjusted || (s.session st).grant (clamp 1 600 amount).value < (clamp 1 600 amount).value)
      (le16 ((s.session st).grant (clamp 1 600 amount).value)
        ++ le16 ((s.extended st ((s.session st).grant (clamp 1 600 amount).value)).stepRemaining st)) := rfl

/-- Settles O8. -/
theorem extendStepMovesTheDeadlines : Obligations.ExtendStepMovesTheDeadlines := by
  intro s q b tag amount payload st x d ht hx hb h0 hr htag hp hstep hshow hd asked granted moved lead
  have ok : (s.takeHead.session st).extendRefusal tag = none := by
    rw [State.takeHead_session]
    exact Session.extendRefusal_none hr htag hp hstep hshow
  have hd' : s.takeHead.deadlineOf (.session st) .step = some d := by rw [State.takeHead_deadlineOf, hd]
  have step := State.extendDeadlines_step hd' granted
  obtain ⟨l, e⟩ := State.extended_spec hd' granted
  have adjusted : (clamp 1 600 amount).adjusted = (asked != amount) := by
    rw [Bool.eq_iff_iff, clamp_adjusted, bne_iff_ne]
  have amountGranted : (s.takeHead.session st).grant (clamp 1 600 amount).value = granted := by
    rw [State.takeHead_session]
    rfl
  have remaining : (s.takeHead.extended st granted).stepRemaining st = remainingTenths s.tick moved := by
    rw [State.stepRemaining, State.extended_deadlineOf, step, e]
    exact congrArg (fun t => remainingTenths t moved) s.takeHead_tick
  have g : s.takeHead.extendStep ⟨0x03, q, payload⟩ (b, tag, amount) = (s.takeHead.extended st granted).answer
      ⟨0x03, q, payload⟩ .done (asked != amount || decide (granted < asked))
        (le16 granted ++ le16 (remainingTenths s.tick moved)) := by
    rw [State.extendStep_of_granted hb h0 ok, State.extendGranted_eq, amountGranted, remaining, adjusted]
  rw [State.answer_eq _ _ _ _ _ (k := 0x83)] at g
  have deadline : ∀ i k, ((s.takeHead.extended st granted).append i).beginNext.deadlineOf (.session st) k =
      (s.takeHead.extendDeadlines st granted).deadlineOf (.session st) k := fun i k => State.beginNext_deadlineOf _ _ k
  have store : SameStore s (s.takeHead.extended st granted) := by
    rw [e]
    exact s.sameStore_takeHead
  refine ⟨_, exec_of_counter (exec_extendStep s q payload hx) ht g (by rw [e]; exact s.takeHead_counter),
    by rw [deadline, step], ?_, State.shows_beginNext _ _ (State.shows_append _ _), fun zero => ?_, fun pos w hw => ?_,
    fun pos hw => ?_, ?_, fun y hy => ?_, ?_, ?_, ?_, ?_, store.trans (State.sameStore_beginNext _)⟩
  · rw [State.beginNext_session, State.append_session, e]
    exact (s.takeHead.session_setSession st _).trans (by rw [State.takeHead_session])
  · rw [deadline, zero, State.extendDeadlines_zero hd', State.takeHead_deadlineOf]
  · rw [deadline, State.extendDeadlines_warn_of_some hd' _ pos (by rw [State.takeHead_deadlineOf, hw])]
  · rw [deadline, State.extendDeadlines_warn_of_none hd' _ pos (by rw [State.takeHead_deadlineOf, hw]),
      State.takeHead_session, State.takeHead_settings, State.takeHead_tick]
  · rw [deadline, State.extendDeadlines_key hd', State.takeHead_deadlineOf]
  · rw [State.beginNext_session, State.append_session, e]
    exact (State.session_setSession_of_ne _ hy _).trans (s.takeHead_session y)
  · rw [State.beginNext_devices, State.append_devices, e]
    exact s.takeHead_devices
  · rw [State.beginNext_supplies, State.append_supplies, e]
    exact s.takeHead_supplies
  · rw [State.beginNext_counter, State.append_counter, e]
    exact s.takeHead_counter
  · rw [State.beginNext_tick, State.append_tick, e]
    exact s.takeHead_tick

end Sys2Proof.Machine
end

section
/-! PROOFS. A frame that has left the line (R14, R16, R17, R190), and the deadlines of a session (R41, R97, R102). -/

namespace Sys2Proof.Machine

variable {s : State} {st : Station}

/-! ### A frame that has left the line (R190) -/

theorem exec_frameSent (s : State) : exec .frameSent s = eventRow State.frameLeft s := rfl

theorem State.frameLeft_of_sending {w : Outgoing} {b : List Byte} (h : s.sending = some ⟨w, b⟩) :
    s.frameLeft = { s with sending := none }.reportSent w := by rw [State.frameLeft, h]

theorem State.frameLeft_of_none (h : s.sending = none) : s.frameLeft = s := by rw [State.frameLeft, h]

/-- A frame whose report changes nothing frees the transmitter. -/
theorem exec_frameSent_of_unreported {w : Outgoing} {b : List Byte} (h : s.sending = some ⟨w, b⟩)
    (g : { s with sending := none }.reportSent w = { s with sending := none }) :
    exec .frameSent s = .next ({ s with sending := none }.beginNext) := by
  have e := (State.frameLeft_of_sending h).trans g
  rw [exec_frameSent, eventRow_of_same _ _ (by rw [e]), e]

theorem State.reportSent_reply (s : State) (q k : Byte) (o : ReplyOutcome) (a : Bool) (l : List Byte)
    (h : s.resetPending = none ∨ k ≠ 0x94 ∨ o ≠ .done) : s.reportSent (.item (.reply q k o a l)) = s := by
  cases o with
  | done =>
    unfold State.reportSent
    cases hr : s.resetPending with
    | none => rfl
    | some r =>
      refine if_neg fun hk => ?_
      rcases h with h | h | h
      · rw [hr] at h; cases h
      · exact h hk
      · exact h rfl
  | _ => rfl

theorem State.reportSent_notice (s : State) {i : Item} (h : i.key ≠ none) : s.reportSent (.item i) = s := by
  cases i with
  | reply => exact absurd rfl h
  | stepResult => exact absurd rfl h
  | sessionEnd => exact absurd rfl h
  | _ => rfl

theorem State.outstanding_idle (h : s.outbound.any (Item.isResultOf st) = false) :
    ({ s with sending := none } : State).outstanding st = false := by
  rw [State.outstanding]
  exact (Bool.or_eq_false_iff.2 ⟨h, rfl⟩)

theorem State.pendingResult_stationLineFree (free : s.outstanding st = false) :
    ((s.stationLineFree st).session st).pendingResult = none := by
  have placed : ((s.placePending st).session st).pendingResult = none := by
    cases h : (s.session st).pendingResult with
    | none => rw [State.placePending_of_none h, h]
    | some r =>
      rw [State.placePending_of_free h free]
      exact congrArg Session.pendingResult ((s.append (.stepResult r)).session_setSession st _)
  rw [State.stationLineFree, State.tryComplete_session]
  split
  · rfl
  · exact placed

theorem State.mem_stationLineFree {r : StepResult} (h : (s.session st).pendingResult = some r)
    (free : s.outstanding st = false) : .stepResult r ∈ (s.stationLineFree st).outbound := by
  refine (edited_tryComplete _ st).mem_outbound rfl ?_
  rw [State.placePending_of_free h free]
  exact State.mem_append _ _

/-- Settles O27. -/
theorem sentFrameFreesTheTransmitter : Obligations.SentFrameFreesTheTransmitter := by
  refine ⟨fun s h => ?_, fun s f b h => exec_frameSent_of_unreported h rfl,
    fun s i b h hk => exec_frameSent_of_unreported h (State.reportSent_notice _ hk),
    fun s q k o a l b h hr => exec_frameSent_of_unreported h (State.reportSent_reply _ q k o a l hr),
    fun s st tag c b r h ho hp => ?_⟩
  · have e := State.frameLeft_of_none h
    rw [exec_frameSent, eventRow_of_same _ _ (by rw [e]), e]
  · have e : s.frameLeft = ({ s with sending := none } : State).stationLineFree st := State.frameLeft_of_sending h
    have g := edited_stationLineFree ({ s with sending := none } : State) st
    have free := State.outstanding_idle ho
    refine ⟨_, eventRow_of_same s _ (by rw [e]; exact (g.counter_eq not_false).1), ?_, ?_⟩
    · rw [e]
      exact State.shows_beginNext _ _ (.inl (State.mem_stationLineFree hp free))
    · rw [State.beginNext_session, e]
      exact State.pendingResult_stationLineFree free

/-! ### The end of DELIVERING (R16, R17) -/

section Delivering

theorem State.endDelivering_refused (h : (s.session st).cardRefused = true) :
    s.endDelivering st = s.enterEnding st .cardRefused := if_pos h

variable (hc : (s.session st).cardRefused = false)
include hc

theorem State.endDelivering_deferred {c : EndCause} (h : (s.session st).deferredCause = some c) :
    s.endDelivering st = s.enterEnding st c := by
  unfold State.endDelivering
  dsimp only
  rw [if_neg (Bool.eq_false_iff.1 hc), h]

theorem State.endDelivering_last (h : (s.session st).deferredCause = none) (hl : (s.session st).lastStep = true) :
    s.endDelivering st = s.enterEnding st .completed := by
  unfold State.endDelivering
  dsimp only
  rw [if_neg (Bool.eq_false_iff.1 hc), h]
  exact if_pos hl

theorem State.endDelivering_next (h : (s.session st).deferredCause = none) {i : Nat} {x : StepRecord}
    (hi : (s.session st).index = some i) (hx : (s.session st).steps[i]? = some x) :
    s.endDelivering st = s.enterStarting st (i + 1) := by
  have hl : ¬(s.session st).lastStep = true := by
    rw [Session.lastStep, hi, beq_iff_eq]
    rintro ⟨⟩
    simp at hx
  unfold State.endDelivering
  dsimp only
  rw [if_neg (Bool.eq_false_iff.1 hc), h]
  dsimp only
  rw [if_neg hl, hi, Option.getD_some]

end Delivering

theorem Session.step?_toStarting {r : Session} {i : Nat} {x : StepRecord} (h : r.steps[i]? = some x) :
    (r.toStarting (i + 1)).step? = some x := h

theorem Session.policyConflict_toStarting (r : Session) (i : Nat) (k : StepKind) :
    (r.toStarting i).policyConflict k = r.policyConflict k := by
  cases k with
  | entry mode lo hi bounds => cases mode <;> cases bounds <;> rfl
  | _ => rfl

theorem Session.Started.facts {i : Nat} {r t : Session} (h : r.Started i t) : t.state = r.state ∧ t.index = some i
    ∧ t.phase ≠ some .delivering ∧ t.steps = r.steps ∧ t.pendingResult = r.pendingResult := by
  obtain ⟨w, b, c, ph, hph, rfl⟩ := h
  exact ⟨rfl, rfl, fun q => hph (Option.some.inj q), rfl, rfl⟩

/-- A session that is RUNNING with nothing pending is left as its station's line becomes free. -/
theorem State.stationLineFree_running (h : (s.session st).state = .running) (hp : (s.session st).pendingResult = none) :
    s.stationLineFree st = s := by
  rw [State.stationLineFree, State.placePending_of_none hp, State.tryComplete_of_not_ending _ _ (by rw [h]; simp)]

/-- The transmitter at a frame boundary, before what has left is reported (R190). -/
def State.freed (s : State) : State := { s with sending := none }

theorem stationFrame_freed (s : State) (st : Station) : StationFrame st s s.freed := by
  constructor <;> intros <;> first | rfl | exact ⟨rfl, rfl, rfl, rfl, rfl, rfl⟩

theorem State.resultLeft_of_delivering (hr : (s.session st).state = .running)
    (hp : (s.session st).phase = some .delivering) (hn : (s.session st).pendingResult = none) :
    s.resultLeft st = s.endDelivering st := if_pos ⟨hr, hp, by rw [hn]; rfl⟩

/-- Settles O28: the cases of R16 in their order. -/
theorem sentResultEndsDelivering : Obligations.SentResultEndsDelivering := by
  intro s r b h x hr hp hn
  have e : s.frameLeft = (s.freed.endDelivering r.station).stationLineFree r.station := by
    rw [State.frameLeft_of_sending h, ← State.resultLeft_of_delivering (s := s.freed) hr hp hn]
    rfl
  have frame : StationFrame r.station s s.frameLeft := by
    rw [e]
    exact (stationFrame_freed s _).trans
      ((edited_endDelivering s.freed r.station).trans (edited_stationLineFree _ r.station)).stationFrame
  have ends : ∀ {c}, Ends x ((s.freed.endDelivering r.station).session r.station) c →
      Ends x (s.frameLeft.beginNext.session r.station) c := fun k => by
    rw [State.beginNext_session, e]
    exact k.stationLineFree
  have ending : ∀ {c}, s.freed.endDelivering r.station = s.freed.enterEnding r.station c →
      Ends x (s.frameLeft.beginNext.session r.station) c := fun k => ends (by
      rw [k]
      exact s.freed.ends_enterEnding _ _)
  refine ⟨_, eventRow_of_same s _ frame.counter, fun hc => ending (State.endDelivering_refused (s := s.freed) hc),
    fun hc c hd => ending (State.endDelivering_deferred (s := s.freed) hc hd),
    fun hc hd hl => ending (State.endDelivering_last (s := s.freed) hc hd hl),
    fun hc hd i next hi hx => ?_, frame.beginNext.session, frame.beginNext.supply, frame.beginNext.counter,
    frame.beginNext.tick, frame.beginNext.store⟩
  have k := State.endDelivering_next (s := s.freed) hc hd hi hx
  refine ⟨fun conflict => ends ?_, fun ok => ?_⟩
  · rw [k]
    exact State.enterStarting_conflict (s := s.freed) (Session.step?_toStarting hx)
      ((Session.policyConflict_toStarting _ _ _).trans conflict)
  · obtain ⟨started, -⟩ := State.enterStarting_session (s := s.freed) (Session.step?_toStarting hx)
      ((Session.policyConflict_toStarting _ _ _).trans ok)
    obtain ⟨state, index, phase, steps, pending⟩ := started.facts
    rw [← k] at state index phase steps pending
    rw [State.beginNext_session, e, State.stationLineFree_running (state.trans hr) (pending.trans hn)]
    exact ⟨state.trans hr, index, phase, steps⟩

end Sys2Proof.Machine
end

section
/-! PROOFS. The deadlines that fall due: of sessions, of devices and of the counter (R41, R97, R102, R114, R116, R165,
R167, R171). -/

namespace Sys2Proof.Machine

variable {s u : State} {st : Station} {d : Tick} {rest : List Entry}

/-! ### The instant of an expiry (R96) -/

/-- The state in which an expiry takes effect: the instant reached, and the rest of the deadline list. -/
def State.fallen (u : State) (rest : List Entry) : State := { u with deadlines := rest }

/-- What is the same at the instant of an expiry as before. -/
structure AtInstant (s : State) (d : Tick) (v : State) : Prop where
  tick : v.tick = s.tickAt d
  sessions : v.sessions = s.sessions
  devices : v.devices = s.devices
  outbound : v.outbound = s.outbound
  sending : v.sending = s.sending
  counter : v.counter = s.counter
  wakeCause : v.wakeCause = s.wakeCause
  awaiting : v.awaiting = s.awaiting
  textOwed : v.textOwed = s.textOwed
  store : SameStore s v

theorem State.atInstant (r : s.reach d = some u) (rest : List Entry) : AtInstant s d (u.fallen rest) := by
  have e := (State.reach_some r).1
  constructor
  case tick => exact (State.reach_tick r : u.tick = _)
  case store => rw [State.fallen, e]; exact ⟨rfl, rfl, rfl, rfl, rfl, rfl⟩
  all_goals rw [State.fallen, e]

namespace AtInstant

variable {v : State} (h : AtInstant s d v)
include h

theorem session (x : Station) : v.session x = s.session x := by rw [State.session, State.session, h.sessions]
theorem device (p : Port) : v.device p = s.device p := by rw [State.device, State.device, h.devices]
theorem settings : v.settings = s.settings := h.store.1

theorem outstanding (x : Station) : v.outstanding x = s.outstanding x :=
  s.outstanding_of_outbound x (by rw [h.outbound]) h.sending

end AtInstant

/-- An expiry at the head of the list, of an owner whose state times it. -/
theorem exec_of_expiry {i : Instr} {o : Owner} {k : DeadlineKind} {timed : Bool} {effect : State → State}
    (hi : exec i s = eventRow (fun s => s.expire o k timed effect) s) (ht : timed = true)
    (h : s.deadlines = ⟨o, k, d⟩ :: rest) (r : s.reach d = some u) :
    exec i s = .next ((effect (u.fallen rest)).whole s) := by
  rw [hi, eventRow, State.expire_head o k timed effect d rest ht h r]
  rfl

/-- The same where the effect leaves the counter's state. -/
theorem exec_of_expiry_same {i : Instr} {o : Owner} {k : DeadlineKind} {timed : Bool} {effect : State → State}
    (hi : exec i s = eventRow (fun s => s.expire o k timed effect) s) (ht : timed = true)
    (h : s.deadlines = ⟨o, k, d⟩ :: rest) (r : s.reach d = some u)
    (hc : (effect (u.fallen rest)).counter = (u.fallen rest).counter) :
    exec i s = .next (effect (u.fallen rest)).beginNext := by
  rw [exec_of_expiry hi ht h r, State.whole_of_same _ _ (hc.trans (State.atInstant r rest).counter)]

/-! ### Sessions (R41, R97, R102) -/

theorem Session.timed_iff {r : Session} : r.timed = true ↔
    r.state = .running ∧ (r.phase = some .waitingClear ∨ r.phase = some .active) := by
  simp [Session.timed]

theorem State.stepExpired_show {x : StepRecord} (h : (s.session st).step? = some x) (hx : x.kind.isShow = true) :
    s.stepExpired st = s.deliver st .showOk := by
  obtain ⟨prompt, kind⟩ := x
  unfold State.stepExpired
  rw [h]
  cases kind with
  | showText => rfl
  | _ => cases hx

theorem State.stepExpired_other {x : StepRecord} (h : (s.session st).step? = some x) (hx : x.kind.isShow = false) :
    s.stepExpired st = s.enterEnding st .timedOut := by
  obtain ⟨prompt, kind⟩ := x
  unfold State.stepExpired
  rw [h]
  cases kind with
  | showText => cases hx
  | _ => rfl

/-- What a session's expiry leaves outside its station. -/
theorem expiryFrame (r : s.reach d = some u) {t : State} (e : Edited (.at st) (u.fallen rest) t) :
    t.beginNext.tick = s.tickAt d ∧ (∀ y, y ≠ st → t.beginNext.session y = s.session y)
      ∧ (∀ p, stationOf p ≠ st → t.beginNext.device p = s.device p)
      ∧ (∀ y, t.beginNext.supply y = u.supply y) ∧ t.beginNext.counter = s.counter ∧ SameStore s t.beginNext := by
  have i := State.atInstant r rest
  have f := e.stationFrame.beginNext
  exact ⟨f.tick.trans i.tick, fun y hy => (f.session y hy).trans (i.session y),
    fun p hp => (f.device p hp).trans (i.device p), f.supply, f.counter.trans i.counter, i.store.trans f.store⟩

/-- Settles O35. -/
theorem stepDeadlineFallsDue : Obligations.StepDeadlineFallsDue := by
  intro s u st x d rest hr hp hx h r
  have i := State.atInstant r rest
  have hx' : ((u.fallen rest).session st).step? = some x := by rw [i.session, hx]
  have timed : (s.session st).timed = true := Session.timed_iff.2 ⟨hr, hp⟩
  have row : ∀ {t}, (u.fallen rest).stepExpired st = t → t.counter = (u.fallen rest).counter →
      exec (.stepDeadline st) s = .next t.beginNext := by
    rintro t rfl hc
    exact exec_of_expiry_same (effect := fun s => s.stepExpired st) rfl timed h r hc
  cases hs : x.kind.isShow with
  | false =>
    have e := edited_enterEnding (u.fallen rest) st .timedOut
    obtain ⟨tick, session, device, supply, counter, store⟩ := expiryFrame r e
    refine ⟨_, row (State.stepExpired_other hx' hs) (e.counter_eq not_false).1, tick, fun _ => ?_, fun c => absurd c (by simp),
      fun k hk => ?_, session, supply, device, counter, store⟩
    · rw [State.beginNext_session, ← i.session]
      exact (u.fallen rest).ends_enterEnding st .timedOut
    · rw [State.beginNext_deadlineOf]
      exact State.enterEnding_deadlineOf _ _ _ hk
  | true =>
    have e := edited_deliver (u.fallen rest) st .showOk
    obtain ⟨tick, session, device, supply, counter, store⟩ := expiryFrame r e
    refine ⟨_, row (State.stepExpired_show hx' hs) (e.counter_eq not_false).1, tick, fun c => absurd c (by simp),
      fun _ => ?_, fun k hk => ?_, session, supply, device, counter, store⟩
    · obtain ⟨_, _, _, _, record⟩ := (u.fallen rest).deliver_session st .showOk
      rw [State.beginNext_session, record, i.session]
      refine ⟨hr, rfl, fun free tag n htag hn => State.shows_beginNext _ _ (.inl ?_)⟩
      exact State.mem_deliver (by rw [i.session, htag]) (by rw [i.session, hn]) _ (by rw [i.outstanding, free])
    · rw [State.beginNext_deadlineOf]
      exact State.deliver_deadlineOf _ _ _ hk

theorem State.beep_device_of_idle (k : BeepKind) (h : (s.device (keypadOf st)).state = .engaged)
    (hq : (s.device (keypadOf st)).queue = []) :
    ((s.beep st k).device (keypadOf st)).queue.map (·.command) = [.beep k] := by
  have engaged : s.engaged (keypadOf st) = true := by rw [State.engaged, h]; rfl
  have accepts : s.acceptsCommand (keypadOf st) (.beep k) = true := by
    rw [State.acceptsCommand, h, kindOf_keypadOf]; rfl
  have free : ∀ c, (s.device (keypadOf st)).carriesClass c = false := fun c => by simp [Device.carriesClass, hq]
  unfold State.beep State.sessionQueue
  rw [if_pos engaged, State.queueCommand_device, if_pos accepts, Device.accept, if_neg (by simp [free])]
  simp [ofClass, hq]

theorem State.beep_device_of_ne (s : State) (st : Station) (k : BeepKind) {p : Port} (h : p ≠ keypadOf st) :
    (s.beep st k).device p = s.device p := by
  unfold State.beep State.sessionQueue
  split
  · exact State.queueCommand_device_of_ne _ _ _ h
  · rfl

/-- Settles O36. -/
theorem warnAndKeyDeadlinesFallDue : Obligations.WarnAndKeyDeadlinesFallDue := by
  intro s u st d rest r hr hp
  have i := State.atInstant r rest
  have timed : (s.session st).timed = true := Session.timed_iff.2 ⟨hr, hp⟩
  refine ⟨fun h => ?_, fun h => ?_⟩
  · have e : Edited (.at st) (u.fallen rest) ((u.fallen rest).warnStep st) :=
      ((edited_modifySession _ st _).trans (edited_noteProgress _ st)).trans (edited_beep _ st _)
    obtain ⟨tick, session, device, supply, counter, store⟩ := expiryFrame r e
    have devices : ∀ p, ((((u.fallen rest).modifySession st fun r => { r with warned := true }).noteProgress st).device p)
        = s.device p := fun p => by
      rw [State.noteProgress_device, State.modifySession_eq, State.setSession_device, i.device]
    refine ⟨_, exec_of_expiry_same (effect := fun s => s.warnStep st) rfl timed h r (e.counter_eq not_false).1, tick, ?_,
      ?_, fun he hq => ?_, session, fun p hp => ?_, ?_, counter, store⟩
    · rw [State.beginNext_deadlines, State.warnStep, State.beep_deadlines, State.noteProgress_deadlines]
      rfl
    · rw [State.beginNext_session, State.warnStep, State.beep_session, State.noteProgress_session, State.modifySession_eq,
        State.session_setSession, i.session]
    · rw [State.beginNext_device]
      exact State.beep_device_of_idle .warn (by rw [devices, he]) (by rw [devices, hq])
    · rw [State.beginNext_device, State.warnStep, State.beep_device_of_ne _ _ _ hp, devices]
    · exact supplies_eq_of_supply supply
  · have e := edited_enterEnding (u.fallen rest) st .timedOut
    obtain ⟨tick, session, device, supply, counter, store⟩ := expiryFrame r e
    refine ⟨_, exec_of_expiry_same (effect := fun s => s.enterEnding st .timedOut) rfl timed h r
      (e.counter_eq not_false).1, tick, ?_, fun k hk => ?_, session, supply, counter, store⟩
    · rw [State.beginNext_session, ← i.session]
      exact (u.fallen rest).ends_enterEnding st .timedOut
    · rw [State.beginNext_deadlineOf]
      exact State.enterEnding_deadlineOf _ _ _ hk

end Sys2Proof.Machine
end

section
/-! PROOFS. The deadlines of the devices and of the counter (R114, R116, R165, R167, R171). -/

namespace Sys2Proof.Machine

variable (s : State) (p : Port) (st : Station)

/-! ### Due ticks after a change of port state (R143) -/

theorem State.dueAfterChange_due_of_unaddressed (h : (s.device p).state.addressed = false) :
    (s.dueAfterChange p).due p = none := by
  unfold State.dueAfterChange
  dsimp only
  rw [if_pos (by simp [h])]
  exact s.due_setDue p none

theorem State.changePort_eq_note (after : PortState) (reason : DeviceReason) : s.changePort p after reason =
    (((s.setDevice p { s.device p with state := after }).setOwed p none).dueAfterChange p).noteDevice p
      (s.device p).state after reason := rfl

theorem State.changePort_due_of_unaddressed {after : PortState} (reason : DeviceReason) (h : after.addressed = false) :
    (s.changePort p after reason).due p = none := by
  rw [State.changePort_eq_note]
  exact State.dueAfterChange_due_of_unaddressed _ p (by simp [h])

/-! ### A device set aside, and a RESET-DEVICE asked for (R114, R117) -/

@[simp] theorem State.hold_device (why : HeldReason) (reason : DeviceReason) :
    (s.hold p why reason).device p = { s.device p with state := .held, heldReason := some why } := by
  rw [State.hold, State.changePort_device, State.modifyDevice_eq, State.device_setDevice]

theorem State.hold_due (why : HeldReason) (reason : DeviceReason) : (s.hold p why reason).due p = none :=
  State.changePort_due_of_unaddressed _ p reason rfl

@[simp] theorem State.hold_owes (why : HeldReason) (reason : DeviceReason) : (s.hold p why reason).owes p = none :=
  State.changePort_owes _ p _ _

@[simp] theorem State.hold_deadlines (why : HeldReason) (reason : DeviceReason) :
    (s.hold p why reason).deadlines = s.deadlines := State.changePort_deadlines _ p _ _

@[simp] theorem State.askReset_device (x : Port) : (s.askReset p).device x = s.device x :=
  State.dueNow_device _ p x

@[simp] theorem State.askReset_owes : (s.askReset p).owes p = some .resetDevice :=
  (State.dueNow_owes _ p p).trans (s.owes_setOwed p _)

theorem State.askReset_waited : ((s.askReset p).waited p).isSome = true := State.waited_dueNow (s.setOwed p _) p

theorem State.askReset_deadlineOf : (s.askReset p).deadlineOf (.device p) .device = some (ahead s.tick 3000) := by
  rw [State.askReset, State.deadlineOf_placeDeadline]
  exact congrArg (fun t => some (ahead t 3000)) (State.dueNow_tick _ p)

variable {s p st} {u : State} {d : Tick} {rest : List Entry}

/-- What an expiry of a device leaves. -/
theorem deviceExpiryFrame (r : s.reach d = some u) {t : State} (e : Edited (.device p) (u.fallen rest) t) :
    t.beginNext.tick = s.tickAt d ∧ (∀ y, y ≠ p → t.beginNext.device y = s.device y) ∧ t.beginNext.sessions = s.sessions
      ∧ t.beginNext.supplies = u.supplies ∧ t.beginNext.counter = s.counter ∧ SameStore s t.beginNext := by
  have i := State.atInstant r rest
  refine ⟨?_, fun y hy => ?_, ?_, ?_, ?_, i.store.trans (e.untouched.sameStore.trans t.sameStore_beginNext)⟩
  · rw [State.beginNext_tick, e.untouched.tick, i.tick]
  · rw [State.beginNext_device, e.device_eq hy, i.device]
  · rw [State.beginNext_sessions, sessions_eq_of_session fun y => e.session_eq not_false, i.sessions]
  · rw [State.beginNext_supplies]
    exact supplies_eq_of_supply fun y => e.supply_eq not_false
  · rw [State.beginNext_counter, (e.counter_eq not_false).1, i.counter]

theorem State.restartAgain_below (h : (s.device p).restartCount < s.settings.restartLimit) : s.restartAgain p =
    (s.setDevice p { s.device p with restartCount := (s.device p).restartCount + 1 }).askReset p := if_pos h

theorem State.restartAgain_at_limit (h : s.settings.restartLimit ≤ (s.device p).restartCount) :
    s.restartAgain p = s.hold p .restartLimit .restartLimit := if_neg (Nat.not_lt.2 h)

/-- Settles O37. -/
theorem deviceDeadlineFallsDue : Obligations.DeviceDeadlineFallsDue := by
  intro s u p d rest h r
  have i := State.atInstant r rest
  refine ⟨fun hs below => ?_, fun hs limit => ?_, fun joined => ?_⟩
  · have e := edited_restartAgain (A := .device p) (u.fallen rest) p rfl
    have g := State.restartAgain_below (s := u.fallen rest) (p := p) (by rw [i.device, i.settings]; exact below)
    obtain ⟨tick, device, sessions, supplies, counter, store⟩ := deviceExpiryFrame r e
    refine ⟨_, exec_of_expiry_same (effect := fun s => s.restartAgain p) rfl (by simp [hs]) h r (e.counter_eq not_false).1,
      tick, ?_, ?_, ?_, ?_, device, sessions, supplies, counter, store⟩
    · rw [State.beginNext_device, g, State.askReset_device, State.device_setDevice, i.device]
    · rw [State.beginNext_owes, g, State.askReset_owes]
    · rw [State.beginNext_waited, g, State.askReset_waited]
    · rw [State.beginNext_deadlineOf, g, State.askReset_deadlineOf, State.setDevice_tick, i.tick]
  · have e := edited_restartAgain (A := .device p) (u.fallen rest) p rfl
    have g := State.restartAgain_at_limit (s := u.fallen rest) (p := p) (by rw [i.device, i.settings]; exact limit)
    obtain ⟨tick, device, sessions, supplies, counter, store⟩ := deviceExpiryFrame r e
    refine ⟨_, exec_of_expiry_same (effect := fun s => s.restartAgain p) rfl (by simp [hs]) h r (e.counter_eq not_false).1,
      tick, ?_, ?_, ?_, ?_, device, sessions, supplies, counter, store⟩
    · rw [State.beginNext_device, g, State.hold_device, i.device]
    · rw [State.beginNext_due, g, State.hold_due]
    · rw [State.beginNext_owes, g, State.hold_owes]
    · rw [State.beginNext_deadlines, g, State.hold_deadlines]
      rfl
  · have e : Edited (.device p) (u.fallen rest) ((u.fallen rest).deviceClean p) :=
      edited_modifyDevice _ p _ rfl (Nat.zero_le _)
    obtain ⟨tick, device, sessions, supplies, counter, store⟩ := deviceExpiryFrame r e
    have timed : (s.device p).state.joined = true := by rcases joined with h | h | h <;> rw [h] <;> rfl
    refine ⟨_, exec_of_expiry_same (effect := fun s => s.deviceClean p) rfl timed h r (e.counter_eq not_false).1,
      tick, ?_, ?_, device, sessions, supplies, counter, store⟩
    · rw [State.beginNext_deadlines]
      rfl
    · rw [State.beginNext_device, State.deviceClean, State.modifyDevice_eq, State.device_setDevice, i.device]

/-! ### The counter's changes (R163) -/

variable (s)

@[simp] theorem State.changeCounter_counter (after : CounterState) (reason : CounterReason) :
    (s.changeCounter after reason).counter = after := rfl

/-- With no COUNTER-CHANGE standing a new one is placed. -/
theorem State.changeCounter_outbound_fresh (after : CounterState) (reason : CounterReason)
    (h : ∀ x ∈ s.outbound, x.key ≠ some .counterChange) : (s.changeCounter after reason).outbound =
      s.outbound ++ [.counterChange s.counter after reason (if reason.carriesWake then s.wakeCause else none) 1] :=
  coalesce_fresh _ _ _ _ h

variable {s}

theorem State.whole_of_ne {before : State} (hc : s.counter ≠ .waking ∨ before.counter = .waking) :
    s.whole before = s.beginNext := by
  rw [State.whole, State.passZeroSettle_of_ne _ _ hc]

/-- Settles O39. -/
theorem settleEntryOpensTheCounter : Obligations.SettleEntryOpensTheCounter := by
  intro s u d rest h r
  have i := State.atInstant r rest
  have fresh : (∀ x ∈ s.outbound, x.key ≠ some .counterChange) →
      ∀ x ∈ (u.fallen rest).outbound, x.key ≠ some .counterChange := by rw [i.outbound]; exact id
  refine ⟨fun hc => ?_, fun hc => ?_⟩
  · have row := exec_of_expiry (i := .settled) (effect := State.settleComplete) rfl (by simp [hc]) h r
    rw [State.whole_of_ne (.inr hc)] at row
    refine ⟨_, row, ?_, ?_, ?_, ?_, fun none => State.shows_beginNext _ _ (.inl ?_), ?_, ?_, ?_, ?_⟩
    · rw [State.beginNext_tick]; exact i.tick
    · rw [State.beginNext_counter]; rfl
    · rw [State.beginNext_deadlines]; rfl
    · rw [State.beginNext_awaiting]; exact i.awaiting
    · rw [State.settleComplete, State.changeCounter_outbound_fresh _ _ _ (fresh none), i.counter, i.wakeCause, hc]
      simp [CounterReason.carriesWake]
    · rw [State.beginNext_sessions]; exact i.sessions
    · rw [State.beginNext_devices]; exact i.devices
    · rw [State.beginNext_supplies]; rfl
    · exact i.store.trans (State.sameStore_beginNext ((u.fallen rest).changeCounter .opened .settled))
  · have row := exec_of_expiry (i := .startCap) (effect := fun s => s.openFromStarting .startCap) rfl (by simp [hc]) h r
    rw [State.whole_of_ne (.inl (by simp [State.openFromStarting, State.removeSettle, State.clearAwaiting,
      State.removeDeadline]))] at row
    refine ⟨_, row, ?_, ?_, ?_, fun none => State.shows_beginNext _ _ (.inl ?_), fun o k hok => ?_, ?_, ?_, ?_, ?_⟩
    · rw [State.beginNext_tick]; exact i.tick
    · rw [State.beginNext_counter]; rfl
    · rw [State.beginNext_awaiting]; rfl
    · have placed := State.changeCounter_outbound_fresh _ .opened .startCap (fresh none)
      rw [i.counter, hc] at placed
      show _ ∈ ((u.fallen rest).changeCounter .opened .startCap).outbound
      rw [placed]
      simp [CounterReason.carriesWake]
    · rw [State.beginNext_deadlineOf]
      have ne : ¬(o = .counter ∧ k = .settle) := by rintro ⟨rfl, rfl⟩; simp at hok
      exact State.deadlineOf_removeDeadline_of_ne ((u.fallen rest).changeCounter .opened .startCap) _ _ _ _ ne
    · rw [State.beginNext_sessions]; exact i.sessions
    · rw [State.beginNext_devices]; exact i.devices
    · rw [State.beginNext_supplies]; rfl
    · exact i.store.trans (State.sameStore_beginNext ((u.fallen rest).openFromStarting .startCap))

end Sys2Proof.Machine
end

section
/-! PROOFS. What acts on every station in turn, seen from one station; and the loss of the workstation (R167, R168). -/

namespace Sys2Proof.Machine

variable {s : State} {st : Station}

/-! ### One station of eight -/

/-- Everything but one station: its session, its devices and its supply. `counter` says whether the counter is in. -/
def Scope.others (st : Station) (counter : Prop) : Scope :=
  ⟨fun x => x ≠ st, fun p => stationOf p ≠ st, fun x => x ≠ st, counter⟩

theorem Scope.at_within_others {x y : Station} (h : y ≠ x) : (Scope.at y).Within (.others x False) :=
  ⟨fun _ e g => h (e.symm.trans g), fun _ e g => h (e.symm.trans g), fun _ h => h.elim, fun h => h⟩

theorem Scope.power_within_others {x y : Station} (h : y ≠ x) : (Scope.power y).Within (.others x True) :=
  ⟨fun _ e g => h (e.symm.trans g), fun _ e g => h (e.symm.trans g), fun _ e g => h (e.symm.trans g), fun h => h⟩

theorem edited_foldl {A : Scope} {f : Station → State → State} (l : List Station)
    (h : ∀ y ∈ l, ∀ s, Edited A s (f y s)) : Edited A s (l.foldl (fun s y => f y s) s) := by
  induction l generalizing s with
  | nil => exact .refl
  | cons y ys ih => exact (h y (by simp) s).trans (ih fun z hz => h z (by simp [hz]))

theorem stations_split (st : Station) : ∃ before after, stations = before ++ st :: after ∧ st ∉ before ∧ st ∉ after :=
  by
  obtain ⟨before, after, h⟩ := List.append_of_mem (mem_stations st)
  have once : stations.Nodup := by decide
  rw [h, List.nodup_append] at once
  obtain ⟨-, once, apart⟩ := once
  exact ⟨before, after, h, fun m => apart st m st (by simp) rfl, (List.nodup_cons.1 once).1⟩

/-- Seen from one station, acting on all of them is acting on it, with something before and behind that leaves it. -/
theorem edited_forStations_at {f : Station → State → State} {c : Prop} (st : Station)
    (h : ∀ y s, y ≠ st → Edited (.others st c) s (f y s)) :
    ∃ u, Edited (.others st c) s u ∧ Edited (.others st c) (f st u) (s.forStations f) := by
  obtain ⟨before, after, e, hb, ha⟩ := stations_split st
  have others : ∀ l : List Station, st ∉ l → ∀ y ∈ l, ∀ s, Edited (.others st c) s (f y s) :=
    fun l hl y (hy : y ∈ l) s => h y s fun q => hl (q ▸ hy)
  refine ⟨_, edited_foldl before (others before hb), ?_⟩
  rw [State.forStations, e, List.foldl_append, List.foldl_cons]
  exact edited_foldl after (others after ha)

/-- A text owed to a station outside the scope is left, when the counter is outside it too. -/
theorem Edited.textOwed_eq {A : Scope} {t : State} (h : Edited A s t) (hx : ¬A.station st) (hc : ¬A.counter) :
    t.textOwed[st.val] = s.textOwed[st.val] := by
  induction h with
  | owedText y x _ a ih =>
    have ne : y.val ≠ st.val := fun e => hx (Fin.ext e ▸ a)
    rw [← ih]
    exact Vector.getElem_set_ne y.isLt st.isLt ne
  | owedTexts => exact absurd (by assumption) hc
  | refl => rfl
  | session => assumption
  | device => assumption
  | supply => assumption
  | due => assumption
  | owed => assumption
  | place => assumption
  | remove => assumption
  | note => assumption
  | result => assumption
  | counter => assumption
  | wake => assumption
  | await => assumption

/-- The devices alone. -/
def Scope.ports : Scope := ⟨fun _ => False, fun _ => True, fun _ => False, False⟩

/-- The stations, without the counter. -/
def Scope.stations : Scope := ⟨fun _ => True, fun _ => True, fun _ => False, False⟩

theorem Scope.at_within_stations (st : Station) : (Scope.at st).Within .stations :=
  ⟨fun _ _ => trivial, fun _ _ => trivial, fun _ h => h, fun h => h⟩

theorem Scope.ports_within_stations : Scope.ports.Within .stations :=
  ⟨fun _ h => h.elim, fun _ h => h, fun _ h => h, fun h => h⟩

/-! ### The loss of the workstation (R25, R167) -/

theorem edited_loseWorkstation_stations (s : State) : Edited .stations s s.loseWorkstation :=
  edited_forStations fun st s => edited_ite ((edited_enterEnding s st _).mono (Scope.at_within_stations st)) .refl

/-- What the loss of the workstation does at one station. -/
def State.loseSession (s : State) (st : Station) : State :=
  if (s.session st).state = .running then s.enterEnding st .workstationLost else s

theorem State.loseWorkstation_at (s : State) (st : Station) : ∃ u, Edited (.others st False) s u
    ∧ Edited (.others st False) (u.loseSession st) s.loseWorkstation :=
  edited_forStations_at (f := fun st s => s.loseSession st) st fun y s hy =>
    edited_ite ((edited_enterEnding s y _).mono (Scope.at_within_others hy)) .refl

theorem Scope.others_station {c : Prop} : ¬(Scope.others st c).station st := fun h => h rfl

theorem Scope.others_port {c : Prop} {p : Port} (h : stationOf p = st) : ¬(Scope.others st c).port p := fun g => g h

theorem State.loseWorkstation_session_running (h : (s.session st).state = .running) :
    Ends (s.session st) (s.loseWorkstation.session st) .workstationLost := by
  obtain ⟨u, before, after⟩ := s.loseWorkstation_at st
  have same := before.session_eq Scope.others_station
  rw [after.session_eq Scope.others_station, State.loseSession, if_pos (by rw [same, h]), ← same]
  exact u.ends_enterEnding st .workstationLost

theorem State.loseWorkstation_session_other (h : (s.session st).state ≠ .running) :
    s.loseWorkstation.session st = s.session st := by
  obtain ⟨u, before, after⟩ := s.loseWorkstation_at st
  have same := before.session_eq Scope.others_station
  rw [after.session_eq Scope.others_station, State.loseSession, if_neg (by rw [same]; exact h), same]

/-- A session on entry to ENDING, its wind-down commands queued (R19, R20). -/
def State.toEnding (s : State) (st : Station) (cause : EndCause) : State :=
  ((s.modifySession st (Session.toEnding cause)).removeSessionDeadlines st).windDown st

theorem State.enterEnding_eq (s : State) (st : Station) (cause : EndCause) :
    s.enterEnding st cause = (s.toEnding st cause).tryComplete st := rfl

theorem State.toEnding_textOwed (s : State) (st : Station) (cause : EndCause) :
    (s.toEnding st cause).textOwed = s.textOwed := by
  rw [State.toEnding, (queuedFor_windDown _ st).textOwed, State.removeSessionDeadlines_textOwed, State.modifySession_eq,
    State.setSession_textOwed]

/-- A session whose keypad is ENGAGED waits on its text in ENDING (R20). -/
theorem State.toEnding_waits (s : State) (st : Station) (cause : EndCause)
    (h : (s.device (keypadOf st)).state = .engaged) : ((s.toEnding st cause).session st).waits ≠ [] :=
  State.windDown_waits _ st (by
    rw [State.engaged, State.removeSessionDeadlines_device, State.modifySession_eq, State.setSession_device, h]
    rfl)

theorem State.enterEnding_textOwed_engaged (s : State) (st : Station) (cause : EndCause)
    (h : (s.device (keypadOf st)).state = .engaged) : (s.enterEnding st cause).textOwed = s.textOwed := by
  rw [State.enterEnding_eq, State.tryComplete, if_neg, State.toEnding_textOwed]
  rw [State.endingComplete_iff]
  exact fun c => s.toEnding_waits st cause h c.2.1

theorem State.enterEnding_textOwed (s : State) (st : Station) (cause : EndCause) :
    (s.enterEnding st cause).textOwed = s.textOwed ∨ (s.enterEnding st cause).textOwed = s.textOwed.set st.val none := by
  rw [State.enterEnding_eq, State.tryComplete]
  split
  · exact .inr (by rw [State.completeEnding_textOwed, State.toEnding_textOwed])
  · exact .inl (s.toEnding_textOwed st cause)

/-- What a station is owed outlives the loss of its session, where only an ENGAGED keypad is owed anything. -/
theorem State.loseWorkstation_textOwed (h : (s.device (keypadOf st)).state = .engaged ∨ s.textOwed[st.val] = none) :
    s.loseWorkstation.textOwed[st.val] = s.textOwed[st.val] := by
  obtain ⟨u, before, after⟩ := s.loseWorkstation_at st
  have text := before.textOwed_eq Scope.others_station not_false
  have device := before.device_eq (Scope.others_port (stationOf_keypadOf st))
  rw [after.textOwed_eq Scope.others_station not_false, ← text, State.loseSession]
  split
  · rcases h with h | h
    · exact congrArg (fun v : Vector (Option OwedText) 8 => v[st.val])
        (u.enterEnding_textOwed_engaged st _ (device ▸ h))
    · rcases u.enterEnding_textOwed st .workstationLost with e | e
      · exact congrArg (fun v : Vector (Option OwedText) 8 => v[st.val]) e
      · exact (congrArg (fun v : Vector (Option OwedText) 8 => v[st.val]) e).trans
          ((Vector.getElem_set_self st.isLt).trans (text.trans h).symm)
  · rfl

/-- The counter turned ORPHANED, before its sessions are ended (R167 steps 1 to 3). -/
def State.toOrphaned (s : State) : State :=
  (s.removeSettle.clearAwaiting.orphanTexts).changeCounter .orphaned .supervisionExpired

theorem edited_closedTexts (s : State) :
    Edited .ports s (s.forStations fun st s => s.textToFreeKeypad st s.closedText) :=
  edited_forStations fun st s => edited_textToFreeKeypad s st _ trivial

theorem State.enterOrphaned_eq (s : State) : s.enterOrphaned =
    s.toOrphaned.loseWorkstation.forStations fun st s => s.textToFreeKeypad st s.closedText := rfl

theorem State.toOrphaned_textOwed (s : State) (st : Station) : s.toOrphaned.textOwed[st.val] =
    if s.textOwed[st.val] = some .idle ∧ (s.device (keypadOf st)).state = .engaged then some .closed else none :=
  s.removeSettle.clearAwaiting.orphanTexts_textOwed st

theorem State.toOrphaned_spec (s : State) : ∃ l a t o, s.toOrphaned =
    { s with deadlines := l, awaiting := a, textOwed := t, counter := .orphaned, outbound := o } := ⟨_, _, _, _, rfl⟩

theorem State.toOrphaned_same (s : State) : s.toOrphaned.tick = s.tick ∧ s.toOrphaned.supplies = s.supplies
    ∧ s.toOrphaned.wakeCause = s.wakeCause ∧ SameStore s s.toOrphaned := by
  obtain ⟨l, a, t, o, h⟩ := s.toOrphaned_spec
  rw [h]
  exact ⟨rfl, rfl, rfl, rfl, rfl, rfl, rfl, rfl, rfl⟩

@[simp] theorem State.toOrphaned_session (s : State) (st : Station) : s.toOrphaned.session st = s.session st := by
  obtain ⟨l, a, t, o, h⟩ := s.toOrphaned_spec
  rw [h]
  rfl

@[simp] theorem State.toOrphaned_device (s : State) (p : Port) : s.toOrphaned.device p = s.device p := by
  obtain ⟨l, a, t, o, h⟩ := s.toOrphaned_spec
  rw [h]
  rfl

/-- Only a station whose keypad is ENGAGED is owed a text in ORPHANED. -/
theorem State.toOrphaned_owes (s : State) (st : Station) : (s.toOrphaned.device (keypadOf st)).state = .engaged
    ∨ s.toOrphaned.textOwed[st.val] = none := by
  rw [State.toOrphaned_device, State.toOrphaned_textOwed]
  by_cases c : s.textOwed[st.val] = some .idle ∧ (s.device (keypadOf st)).state = .engaged
  · exact .inl c.2
  · exact .inr (if_neg c)

theorem State.toOrphaned_settle (s : State) : s.toOrphaned.deadlineOf .counter .settle = none :=
  s.deadlineOf_removeDeadline .counter .settle

/-- Settles O38. -/
theorem supervisionExpires : Obligations.SupervisionExpires := by
  intro s u d rest hc h r
  have i := State.atInstant r rest
  have timed : s.counter.supervised = true := by rcases hc with h | h | h <;> rw [h] <;> rfl
  have lose := edited_loseWorkstation_stations (u.fallen rest).toOrphaned
  have texts := edited_closedTexts (u.fallen rest).toOrphaned.loseWorkstation
  have all := lose.trans (texts.mono Scope.ports_within_stations)
  rw [← State.enterOrphaned_eq] at texts all
  obtain ⟨counter, wake, awaiting⟩ := all.counter_eq not_false
  have row := exec_of_expiry (i := .supervisionExpired) (effect := State.enterOrphaned) rfl timed h r
  rw [State.whole_of_ne (.inl (by rw [counter]; simp [State.toOrphaned]))] at row
  have session : ∀ st, (u.fallen rest).enterOrphaned.beginNext.session st =
      (u.fallen rest).toOrphaned.loseWorkstation.session st := fun st => by
    rw [State.beginNext_session, texts.session_eq not_false]
  have record : ∀ st, (u.fallen rest).toOrphaned.session st = s.session st := fun st =>
    (State.toOrphaned_session _ st).trans (i.session st)
  obtain ⟨tick, supplies, wakeCause, store⟩ := (u.fallen rest).toOrphaned_same
  refine ⟨_, row, ?_, ?_, ?_, ?_, fun st => ?_, fun st running => ?_, fun st other => ?_, ?_, ?_, ?_⟩
  · rw [State.beginNext_tick, all.untouched.tick, tick, i.tick]
  · rw [State.beginNext_counter, counter]
    rfl
  · rw [State.beginNext_deadlineOf, all.deadlineOf_eq (o := .counter) not_false]
    exact State.toOrphaned_settle _
  · rw [State.beginNext_awaiting, awaiting]
    rfl
  · have last := texts.textOwed_eq (st := st) not_false not_false
    have kept := State.loseWorkstation_textOwed (State.toOrphaned_owes (u.fallen rest) st)
    have owed := (u.fallen rest).toOrphaned_textOwed st
    rw [i.device] at owed
    have begun := congrArg (fun v : Vector (Option OwedText) 8 => v[st.val])
      (State.beginNext_textOwed (u.fallen rest).enterOrphaned)
    exact begun.trans (last.trans (kept.trans (owed.trans (by rw [i.textOwed]))))
  · rw [session, ← record]
    exact State.loseWorkstation_session_running (by rw [record, running])
  · rw [session, State.loseWorkstation_session_other (by rw [record]; exact other), record]
  · rw [State.beginNext_supplies, supplies_eq_of_supply fun y => all.supply_eq not_false, supplies]
    rfl
  · rw [State.beginNext_wakeCause, wake, wakeCause, i.wakeCause]
  · exact (i.store.trans store).trans (all.untouched.sameStore.trans (State.sameStore_beginNext _))

end Sys2Proof.Machine
end

section
/-! PROOFS. The supplies: what a change of state makes of the record, the deadline and the devices, and the deadlines of
the supplies (R119, R152 to R158). -/

namespace Sys2Proof.Machine

variable (s : State) (st : Station) (p : Port)

/-! ### SUPPLY-CHANGE (R159) -/

theorem State.noteSupply_eq (before : SupplyState) (reason : SupplyReason) : s.noteSupply st before reason =
    { s with
      outbound := (s.noteSupply st before reason).outbound } := by
  rfl
@[simp] theorem State.noteSupply_tick (before : SupplyState) (reason : SupplyReason) :
    (s.noteSupply st before reason).tick = s.tick := by
  rw [s.noteSupply_eq st before reason]
@[simp] theorem State.noteSupply_sessions (before : SupplyState) (reason : SupplyReason) :
    (s.noteSupply st before reason).sessions = s.sessions := by
  rw [s.noteSupply_eq st before reason]
@[simp] theorem State.noteSupply_session (before : SupplyState) (reason : SupplyReason) (x : Station) :
    (s.noteSupply st before reason).session x = s.session x := by
  simp [State.session]
@[simp] theorem State.noteSupply_devices (before : SupplyState) (reason : SupplyReason) :
    (s.noteSupply st before reason).devices = s.devices := by
  rw [s.noteSupply_eq st before reason]
@[simp] theorem State.noteSupply_device (before : SupplyState) (reason : SupplyReason) (x : Port) :
    (s.noteSupply st before reason).device x = s.device x := by
  simp [State.device]
@[simp] theorem State.noteSupply_supplies (before : SupplyState) (reason : SupplyReason) :
    (s.noteSupply st before reason).supplies = s.supplies := by
  rw [s.noteSupply_eq st before reason]
@[simp] theorem State.noteSupply_supply (before : SupplyState) (reason : SupplyReason) (x : Station) :
    (s.noteSupply st before reason).supply x = s.supply x := by
  simp [State.supply]
@[simp] theorem State.noteSupply_deadlines (before : SupplyState) (reason : SupplyReason) :
    (s.noteSupply st before reason).deadlines = s.deadlines := by
  rw [s.noteSupply_eq st before reason]
@[simp] theorem State.noteSupply_deadlineOf (before : SupplyState) (reason : SupplyReason) (o : Owner) (k : DeadlineKind) :
    (s.noteSupply st before reason).deadlineOf o k = s.deadlineOf o k := by
  simp [State.deadlineOf]
@[simp] theorem State.noteSupply_textOwed (before : SupplyState) (reason : SupplyReason) :
    (s.noteSupply st before reason).textOwed = s.textOwed := by
  rw [s.noteSupply_eq st before reason]
@[simp] theorem State.noteSupply_counter (before : SupplyState) (reason : SupplyReason) :
    (s.noteSupply st before reason).counter = s.counter := by
  rw [s.noteSupply_eq st before reason]

/-! ### The power of a device restored (R119) -/

theorem State.portPowerRestored_eq : s.portPowerRestored p =
    { s with
      devices := (s.portPowerRestored p).devices
      nextDue := (s.portPowerRestored p).nextDue
      owed := (s.portPowerRestored p).owed
      outbound := (s.portPowerRestored p).outbound } := by
  unfold State.portPowerRestored
  split
  · rw [State.dueNow_eq, State.changePort_eq]
  · rfl
@[simp] theorem State.portPowerRestored_sessions : (s.portPowerRestored p).sessions = s.sessions := by
  rw [s.portPowerRestored_eq p]
@[simp] theorem State.portPowerRestored_supplies : (s.portPowerRestored p).supplies = s.supplies := by
  rw [s.portPowerRestored_eq p]
@[simp] theorem State.portPowerRestored_supply (x : Station) : (s.portPowerRestored p).supply x = s.supply x := by
  simp [State.supply]
@[simp] theorem State.portPowerRestored_deadlines : (s.portPowerRestored p).deadlines = s.deadlines := by
  rw [s.portPowerRestored_eq p]
@[simp] theorem State.portPowerRestored_deadlineOf (o : Owner) (k : DeadlineKind) :
    (s.portPowerRestored p).deadlineOf o k = s.deadlineOf o k := by
  simp [State.deadlineOf]
@[simp] theorem State.portPowerRestored_counter : (s.portPowerRestored p).counter = s.counter := by
  rw [s.portPowerRestored_eq p]

theorem Item.eq_supplyChange_of_key {i : Item} (h : i.key = some (.supplyChange st)) :
    ∃ before after reason trips current n, i = .supplyChange st before after reason trips current n := by
  cases i <;> simp_all [Item.key]

/-- The SUPPLY-CHANGE that stands after one is placed gives the record as it stands and the reason of this change. -/
theorem State.mem_noteSupply (before : SupplyState) (reason : SupplyReason) : ∃ b n,
    .supplyChange st b (s.supply st).state reason (s.supply st).tripCount ((s.supply st).lastSample.map fun c => 2 * c.toNat) n
      ∈ (s.noteSupply st before reason).outbound := by
  unfold State.noteSupply
  rw [State.note_outbound]
  rcases placed_mem_coalesce (.supplyChange st) _ (.supplyChange st before (s.supply st).state reason
    (s.supply st).tripCount ((s.supply st).lastSample.map milliamps) 1) s.outbound with h | ⟨y, hy, h⟩
  · exact ⟨_, _, h⟩
  · obtain ⟨b, a, r, t, c, n, rfl⟩ := Item.eq_supplyChange_of_key st hy
    exact ⟨_, _, h⟩

/-- With no SUPPLY-CHANGE of the station standing a new one is placed. -/
theorem State.mem_noteSupply_fresh (before : SupplyState) (reason : SupplyReason)
    (h : ∀ x ∈ s.outbound, x.key ≠ some (.supplyChange st)) :
    .supplyChange st before (s.supply st).state reason (s.supply st).tripCount
      ((s.supply st).lastSample.map fun c => 2 * c.toNat) 1 ∈ (s.noteSupply st before reason).outbound := by
  unfold State.noteSupply
  rw [State.note_outbound, coalesce_fresh _ _ _ _ h]
  exact List.mem_append_right _ List.mem_cons_self

/-! ### The entry to TRIAL (R153) -/

theorem State.setDraw_false : s.setDraw st false = s.setSupply st { s.supply st with draw := false } := rfl

theorem State.enterTrial_eq (reason : SupplyReason) : s.enterTrial st reason =
    ((s.setSupply st { s.supply st with state := .trial, overRun := 0, draw := false }).placeDeadline (.supply st)
      .supply 200).noteSupply st (s.supply st).state reason := by
  rw [State.enterTrial, State.setDraw_false]
  simp only [State.modifySupply_eq, State.setSupply_setSupply, State.supply_setSupply]
  rfl

@[simp] theorem State.enterTrial_supply (reason : SupplyReason) : (s.enterTrial st reason).supply st =
    { s.supply st with state := .trial, overRun := 0, draw := false } := by simp [State.enterTrial_eq, State.placeDeadline]

@[simp] theorem State.enterTrial_sessions (reason : SupplyReason) : (s.enterTrial st reason).sessions = s.sessions := by
  simp [State.enterTrial_eq, State.placeDeadline]

@[simp] theorem State.enterTrial_devices (reason : SupplyReason) : (s.enterTrial st reason).devices = s.devices := by
  simp [State.enterTrial_eq, State.placeDeadline]

@[simp] theorem State.enterTrial_counter (reason : SupplyReason) : (s.enterTrial st reason).counter = s.counter := by
  simp [State.enterTrial_eq, State.placeDeadline]

theorem State.enterTrial_deadlineOf (reason : SupplyReason) :
    (s.enterTrial st reason).deadlineOf (.supply st) .supply = some (ahead s.tick 200) := by
  simp [State.enterTrial_eq]

theorem State.mem_enterTrial (reason : SupplyReason) : ∃ b n, .supplyChange st b .trial reason (s.supply st).tripCount
    ((s.supply st).lastSample.map fun c => 2 * c.toNat) n ∈ (s.enterTrial st reason).outbound := by
  rw [State.enterTrial_eq]
  simpa [State.placeDeadline] using State.mem_noteSupply ((s.setSupply st { s.supply st with
    state := .trial, overRun := 0, draw := false }).placeDeadline (.supply st) .supply 200) st (s.supply st).state reason

theorem State.mem_enterTrial_fresh (reason : SupplyReason) (h : ∀ x ∈ s.outbound, x.key ≠ some (.supplyChange st)) :
    .supplyChange st (s.supply st).state .trial reason (s.supply st).tripCount
      ((s.supply st).lastSample.map fun c => 2 * c.toNat) 1 ∈ (s.enterTrial st reason).outbound := by
  rw [State.enterTrial_eq]
  simpa [State.placeDeadline] using State.mem_noteSupply_fresh ((s.setSupply st { s.supply st with
    state := .trial, overRun := 0, draw := false }).placeDeadline (.supply st) .supply 200) st (s.supply st).state reason h

/-! ### The entry to ON (R153, R119) -/

theorem State.portPowerRestored_device : (s.portPowerRestored p).device p =
    if (s.device p).state = .unpowered then { s.device p with state := .absent } else s.device p := by
  unfold State.portPowerRestored
  split
  · rw [State.dueNow_device, State.changePort_device]
  · rfl

theorem State.portPowerRestored_device_of_ne {x : Port} (h : x ≠ p) :
    (s.portPowerRestored p).device x = s.device x := (edited_portPowerRestored (A := .device p) s p rfl).device_eq h

theorem State.portPowerRestored_waited (h : (s.device p).state = .unpowered) :
    ((s.portPowerRestored p).waited p).isSome = true := by
  rw [State.portPowerRestored, if_pos h]
  exact State.waited_dueNow _ p

theorem State.portPowerRestored_waited_of_ne {x : Port} (h : x ≠ p) :
    (s.portPowerRestored p).waited x = s.waited x := by
  rw [State.waited, (edited_portPowerRestored (A := .device p) s p rfl).due_eq h, State.waited]

/-- The devices of a station whose supply has returned to ON. -/
theorem State.powerRestored_device (h : stationOf p = st) : (s.powerRestored st).device p =
    if (s.device p).state = .unpowered then { s.device p with state := .absent } else s.device p := by
  rcases eq_readerOf_or_keypadOf p with e | e <;> rw [h] at e <;> subst e
  · rw [State.powerRestored, State.portPowerRestored_device_of_ne _ _ (readerOf_ne_keypadOf st st),
      State.portPowerRestored_device]
  · rw [State.powerRestored, State.portPowerRestored_device,
      State.portPowerRestored_device_of_ne _ _ (readerOf_ne_keypadOf st st).symm]

theorem State.powerRestored_waited (h : stationOf p = st) (hp : (s.device p).state = .unpowered) :
    ((s.powerRestored st).waited p).isSome = true := by
  rcases eq_readerOf_or_keypadOf p with e | e <;> rw [h] at e <;> subst e
  · rw [State.powerRestored, State.portPowerRestored_waited_of_ne _ _ (readerOf_ne_keypadOf st st)]
    exact State.portPowerRestored_waited s _ hp
  · rw [State.powerRestored]
    refine State.portPowerRestored_waited _ _ ?_
    rwa [State.portPowerRestored_device_of_ne _ _ (readerOf_ne_keypadOf st st).symm]

/-- The supply as its trial ends, before its devices are powered. -/
def State.entersOn (s : State) (st : Station) : State :=
  ((s.setSupply st { s.supply st with state := .on }).placeDeadline (.supply st) .supply 600000).noteSupply st .trial
    .trialPassed

theorem State.trialOver_eq : s.trialOver st = (s.entersOn st).powerRestored st := rfl

@[simp] theorem State.entersOn_sessions : (s.entersOn st).sessions = s.sessions := by
  simp [State.entersOn, State.placeDeadline]

@[simp] theorem State.entersOn_device (x : Port) : (s.entersOn st).device x = s.device x := by
  simp [State.entersOn, State.placeDeadline]

@[simp] theorem State.entersOn_supply : (s.entersOn st).supply st = { s.supply st with state := .on } := by
  simp [State.entersOn, State.placeDeadline]

theorem State.entersOn_deadlineOf : (s.entersOn st).deadlineOf (.supply st) .supply = some (ahead s.tick 600000) := by
  simp [State.entersOn]

@[simp] theorem State.entersOn_counter : (s.entersOn st).counter = s.counter := by
  simp [State.entersOn, State.placeDeadline]

@[simp] theorem State.trialOver_supply : (s.trialOver st).supply st = { s.supply st with state := .on } := by
  simp [State.trialOver_eq, State.powerRestored]

@[simp] theorem State.trialOver_sessions : (s.trialOver st).sessions = s.sessions := by
  simp [State.trialOver_eq, State.powerRestored]

@[simp] theorem State.trialOver_counter : (s.trialOver st).counter = s.counter := by
  simp [State.trialOver_eq, State.powerRestored]

theorem State.trialOver_deadlineOf : (s.trialOver st).deadlineOf (.supply st) .supply = some (ahead s.tick 600000) := by
  simp [State.trialOver_eq, State.powerRestored, State.entersOn_deadlineOf]

theorem State.trialOver_device (h : stationOf p = st) : (s.trialOver st).device p =
    if (s.device p).state = .unpowered then { s.device p with state := .absent } else s.device p := by
  rw [State.trialOver_eq, State.powerRestored_device _ _ _ h, State.entersOn_device]

/-! ### The deadlines of a supply (R153 to R155) -/

variable {s st p} {u : State} {d : Tick} {rest : List Entry}

/-- What an expiry of a supply leaves of the other supplies and devices, and of the store. -/
theorem supplyExpiryFrame (r : s.reach d = some u) {t : State} (e : Edited (.power st) (u.fallen rest) t) :
    t.beginNext.tick = s.tickAt d ∧ (∀ y, y ≠ st → t.beginNext.supply y = u.supply y)
      ∧ (∀ p, stationOf p ≠ st → t.beginNext.device p = s.device p) ∧ SameStore s t.beginNext := by
  have i := State.atInstant r rest
  refine ⟨?_, fun y hy => ?_, fun p hp => ?_, i.store.trans (e.untouched.sameStore.trans t.sameStore_beginNext)⟩
  · rw [State.beginNext_tick, e.untouched.tick, i.tick]
  · rw [State.beginNext_supply]
    exact e.supply_eq hy
  · rw [State.beginNext_device, e.device_eq hp, i.device]

/-- A supply that is not sampled keeps its record as the clock is carried to an instant. -/
theorem State.reach_supply_of_unsampled {t : Tick} (r : s.reach t = some u) (h : (s.supply st).state.sampled = false) :
    u.supply st = s.supply st := by
  unfold State.reach at r
  split at r
  · rw [← Option.some.inj r]
  · split at r
    · cases r
    · rw [← Option.some.inj r, State.advanceTo_supply, State.passSlots_supply, if_neg (by simp [State.passesSlot, h])]

theorem State.setSupply_self (s : State) (st : Station) : s.setSupply st (s.supply st) = s := by
  simp [State.setSupply, State.supply]

/-- The clean period of a supply leaves all but the record and the SUPPLY-CHANGE. -/
theorem State.supplyClean_spec (s : State) (st : Station) : ∃ o, s.supplyClean st =
    { s.setSupply st { s.supply st with tripCount := 0 } with outbound := o } := by
  unfold State.supplyClean
  split
  · rename_i h
    have g : { s.supply st with tripCount := 0 } = s.supply st := by rw [← h]
    exact ⟨s.outbound, by rw [g, State.setSupply_self]⟩
  · exact ⟨_, rfl⟩

theorem State.mem_supplyClean_fresh (h : (s.supply st).tripCount ≠ 0)
    (fresh : ∀ x ∈ s.outbound, x.key ≠ some (.supplyChange st)) :
    .supplyChange st .on (s.supply st).state .clean 0 ((s.supply st).lastSample.map fun c => 2 * c.toNat) 1
      ∈ (s.supplyClean st).outbound := by
  rw [State.supplyClean, if_neg h]
  simpa using State.mem_noteSupply_fresh (s.setSupply st { s.supply st with tripCount := 0 }) st .on .clean fresh

/-- Settles O32. -/
theorem cooledSupplyEntersTrial : Obligations.CooledSupplyEntersTrial := by
  refine ⟨fun s st c h => ?_, fun s u st d rest h hd r => ?_, fun s t st h e => ?_⟩
  · have g : s.sampleAtSlot st c = s := if_neg (by simp [h, SupplyState.sampled])
    show eventRow (fun s => s.sampleAtSlot st c) s = _
    rw [eventRow_of_same _ _ (by rw [g]), g]
  · have i := State.atInstant r rest
    have hu := State.reach_supply_of_unsampled (st := st) r (by rw [h]; rfl)
    have hs : (u.fallen rest).supply st = s.supply st := hu
    have e := edited_enterTrial (u.fallen rest) st .cooled (by rw [hs, h]; decide)
    have hc := State.enterTrial_counter (u.fallen rest) st .cooled
    obtain ⟨tick, supply, -, store⟩ := supplyExpiryFrame r e
    refine ⟨_, exec_of_expiry_same (effect := fun s => s.enterTrial st .cooled) rfl (by simp [h]) hd r hc, tick, ?_, ?_,
      ?_, fun fresh => ?_, supply, ?_, ?_, ?_, store⟩
    · rw [State.beginNext_supply, State.enterTrial_supply, hs]
    · rw [State.beginNext_deadlineOf, State.enterTrial_deadlineOf, i.tick]
    · obtain ⟨b, n, m⟩ := State.mem_enterTrial (u.fallen rest) st .cooled
      rw [hs] at m
      exact ⟨b, n, State.shows_beginNext _ _ (.inl m)⟩
    · have m := State.mem_enterTrial_fresh (u.fallen rest) st .cooled (by rwa [i.outbound])
      rw [hs, h] at m
      exact State.shows_beginNext _ _ (.inl m)
    · rw [State.beginNext_sessions, State.enterTrial_sessions, i.sessions]
    · rw [State.beginNext_devices, State.enterTrial_devices, i.devices]
    · rw [State.beginNext_counter, hc, i.counter]
  · obtain ⟨t', e', rfl⟩ := eventRow_next s fun s => s.expire (.supply st) .supply ((s.supply st).state == .trial)
      fun s => s.trialOver st
    obtain rfl : t = _ := Host.Outcome.next.inj (e.symm.trans e')
    rw [State.whole_supply]
    rcases State.expire_cases s (.supply st) .supply ((s.supply st).state == .trial) (fun s => s.trialOver st) with
      g | ⟨-, d, rest, u, -, r, g⟩
    · rw [g]
    · rw [g, State.trialOver_supply]
      exact (State.reach_keeps r st).2.1

/-- Settles O33. -/
theorem trialAndCleanPeriodRunOut : Obligations.TrialAndCleanPeriodRunOut := by
  refine ⟨fun s u st d rest h hd r => ?_, fun s u st d rest h hd r => ?_⟩
  · have i := State.atInstant r rest
    have hs : ((u.fallen rest).supply st).state = .trial := (State.reach_keeps r st).1.trans h
    have e := edited_trialOver (u.fallen rest) st hs
    have hc := State.trialOver_counter (u.fallen rest) st
    obtain ⟨tick, supply, device, store⟩ := supplyExpiryFrame r e
    refine ⟨_, exec_of_expiry_same (effect := fun s => s.trialOver st) rfl (by simp [h]) hd r hc, tick, ?_, ?_,
      fun p hp hu => ⟨?_, ?_⟩, fun p hp => ?_, supply, ?_, ?_, store⟩
    · rw [State.beginNext_supply, State.trialOver_supply]
      rfl
    · rw [State.beginNext_deadlineOf, State.trialOver_deadlineOf, i.tick]
    · rw [State.beginNext_device, State.trialOver_device _ _ _ hp, i.device, if_pos hu]
    · rw [State.beginNext_waited, State.trialOver_eq]
      exact State.powerRestored_waited _ _ _ hp (by rwa [State.entersOn_device, i.device])
    · by_cases g : stationOf p = st
      · rw [State.beginNext_device, State.trialOver_device _ _ _ g, i.device,
          if_neg (hp.resolve_left (not_not_intro g))]
      · exact device p g
    · rw [State.beginNext_sessions, State.trialOver_sessions, i.sessions]
    · rw [State.beginNext_counter, hc, i.counter]
  · have i := State.atInstant r rest
    have hs : ((u.fallen rest).supply st).state = .on := (State.reach_keeps r st).1.trans h
    have ht : ((u.fallen rest).supply st).tripCount = (s.supply st).tripCount := (State.reach_keeps r st).2.1
    obtain ⟨o, g⟩ := State.supplyClean_spec (u.fallen rest) st
    obtain ⟨tick, supply, -, store⟩ := supplyExpiryFrame r (edited_supplyClean (u.fallen rest) st hs)
    refine ⟨_, exec_of_expiry_same (effect := fun s => s.supplyClean st) rfl (by simp [h]) hd r (by rw [g]; rfl), tick, ?_,
      ?_, fun trips fresh => ?_, supply, ?_, ?_, ?_, store⟩
    · rw [State.beginNext_supply, g]
      exact State.supply_setSupply _ _ _
    · rw [State.beginNext_deadlines, g]
      rfl
    · have m := State.mem_supplyClean_fresh (s := u.fallen rest) (st := st) (by rwa [ht]) (by rwa [i.outbound])
      rw [hs] at m
      exact State.shows_beginNext _ _ (.inl m)
    · rw [State.beginNext_sessions, g]
      exact i.sessions
    · rw [State.beginNext_devices, g]
      exact i.devices
    · rw [State.beginNext_counter, g]
      exact i.counter

end Sys2Proof.Machine
end

section
/-! PROOFS. Supplies that leave ON, and what becomes of the station's devices and session (R119, R152, R156 to R158). -/

namespace Sys2Proof.Machine

variable (s : State) (st : Station) (p : Port)

/-! ### A device lost to its session (R24) -/

theorem State.releasePort_state_of_not_engaged {x : Port} (h : (s.device x).state ≠ .engaged) :
    ((s.releasePort p).device x).state = (s.device x).state := by
  unfold State.releasePort
  split
  · rename_i engaged
    have ne : x ≠ p := by
      rintro rfl
      exact h (by simpa [State.engaged] using engaged)
    rw [State.changePort_device_of_ne _ _ _ _ ne]
  · rfl

theorem State.settleTextOwed_state (x : Port) :
    ((s.settleTextOwed st).device x).state = (s.device x).state := by
  unfold State.settleTextOwed
  dsimp only
  split
  · split
    · rw [State.queueCommand_state]
      rfl
    · rfl
  · rfl

/-- A device that is not ENGAGED keeps its port state as an ENDING completes: only ENGAGED ones are handed back. -/
theorem State.completeEnding_state_of_not_engaged {x : Port} (h : (s.device x).state ≠ .engaged) :
    ((s.completeEnding st).device x).state = (s.device x).state := by
  obtain ⟨o, e⟩ := s.withSessionEnd_spec st
  have h1 : ((s.withSessionEnd st).device x).state ≠ .engaged := by rw [e]; exact h
  have h2 := State.releasePort_state_of_not_engaged _ (readerOf st) h1
  have h3 := State.releasePort_state_of_not_engaged _ (keypadOf st) (h2.trans_ne h1)
  rw [State.completeEnding_eq, State.settleTextOwed_state, State.modifySession_eq, State.setSession_device, h3, h2, e]
  rfl

theorem State.tryComplete_state_of_not_engaged {x : Port} (h : (s.device x).state ≠ .engaged) :
    ((s.tryComplete st).device x).state = (s.device x).state := by
  unfold State.tryComplete
  split
  · exact State.completeEnding_state_of_not_engaged s st h
  · rfl

theorem State.toEnding_state (cause : EndCause) (x : Port) :
    ((s.toEnding st cause).device x).state = (s.device x).state :=
  (queuedFor_windDown ((s.modifySession st (Session.toEnding cause)).removeSessionDeadlines st) st).state x

theorem State.enterEnding_state_of_not_engaged (cause : EndCause) {x : Port} (h : (s.device x).state ≠ .engaged) :
    ((s.enterEnding st cause).device x).state = (s.device x).state := by
  rw [State.enterEnding_eq, State.tryComplete_state_of_not_engaged _ _ (by rwa [State.toEnding_state]),
    State.toEnding_state]

theorem State.sessionLoss_of_idle (h : (s.session (stationOf p)).state = .idle) : s.sessionLoss p = s := by
  unfold State.sessionLoss
  simp [h]

theorem State.sessionLoss_of_running (h : (s.session (stationOf p)).state = .running)
    (hp : (s.session (stationOf p)).phase ≠ some .delivering) :
    s.sessionLoss p = s.enterEnding (stationOf p) .deviceLost := by
  unfold State.sessionLoss
  dsimp only
  split <;> simp_all

/-- The waits on a device are given up. -/
def Session.forget (p : Port) (r : Session) : Session := { r with waits := r.waits.filter fun w => w.port != p }

theorem State.sessionLoss_of_ending (h : (s.session (stationOf p)).state = .ending) :
    s.sessionLoss p = (s.modifySession (stationOf p) (Session.forget p)).tryComplete (stationOf p) := by
  unfold State.sessionLoss Session.forget
  simp only [h]

theorem State.sessionLoss_state_of_not_engaged {x : Port} (h : (s.device x).state ≠ .engaged) :
    ((s.sessionLoss p).device x).state = (s.device x).state := by
  unfold State.sessionLoss
  dsimp only
  split
  · split <;> rfl
  · exact State.enterEnding_state_of_not_engaged s _ _ h
  · rw [State.tryComplete_state_of_not_engaged _ _ (by simpa using h)]
    rfl
  · rfl

variable {s st p}

/-- A session that has ended with a cause stays so as it loses a device. -/
theorem Ends.sessionLoss {before : Session} {cause : EndCause} (h : Ends before (s.session st) cause)
    (hp : stationOf p = st) : Ends before ((s.sessionLoss p).session st) cause := by
  subst hp
  cases hs : (s.session (stationOf p)).state with
  | idle => rwa [State.sessionLoss_of_idle _ _ hs]
  | running => rcases h with ⟨h, -⟩ | ⟨h, -⟩ <;> rw [hs] at h <;> cases h
  | ending =>
    rw [State.sessionLoss_of_ending _ _ hs]
    refine Ends.tryComplete (h.of_same ?_)
    simp [Session.forget]

variable (s st p)

/-! ### A device whose supply leaves ON (R119) -/

/-- The device is UNPOWERED and forgets what it knew, before its session is told. -/
def State.unpower : State :=
  ((s.modifyDevice p fun d =>
    { d.emptyQueue with missRun := 0, identity := none, status := none, heldReason := none }).removeDeadline
    (.device p) .device).changePort p .unpowered .powerLost

theorem State.portPowerLost_eq : s.portPowerLost p = if (s.device p).state = .unpowered then s
    else if s.engaged p then (s.unpower p).sessionLoss p else s.unpower p := rfl

theorem edited_unpower : Edited (.device p) s (s.unpower p) :=
  ((edited_modifyDevice s p _ rfl le_rfl).trans (edited_removeDeadline _ (.device p) .device (A := .device p) rfl)).trans
    (edited_changePort _ p _ _ rfl)

@[simp] theorem State.unpower_session (x : Station) : (s.unpower p).session x = s.session x :=
  (edited_unpower s p).session_eq not_false

@[simp] theorem State.unpower_textOwed : (s.unpower p).textOwed = s.textOwed := State.changePort_textOwed _ _ _ _

theorem State.unpower_state : ((s.unpower p).device p).state = .unpowered := by
  rw [State.unpower, State.changePort_device]

theorem State.portPowerLost_state : ((s.portPowerLost p).device p).state = .unpowered := by
  rw [State.portPowerLost_eq]
  split
  · assumption
  · split
    · rw [State.sessionLoss_state_of_not_engaged _ _ (by rw [State.unpower_state]; decide), State.unpower_state]
    · exact State.unpower_state s p

/-- A device already UNPOWERED stays so as another loses its power. -/
theorem State.portPowerLost_unpowered {x : Port} (h : (s.device x).state = .unpowered) :
    ((s.portPowerLost p).device x).state = .unpowered := by
  by_cases e : x = p
  · rw [e, State.portPowerLost_state]
  · have g : ((s.unpower p).device x).state = .unpowered := by rw [(edited_unpower s p).device_eq e, h]
    rw [State.portPowerLost_eq]
    split
    · exact h
    · split
      · rw [State.sessionLoss_state_of_not_engaged _ _ (by rw [g]; decide), g]
      · exact g

theorem State.powerLost_state (h : stationOf p = st) : ((s.powerLost st).device p).state = .unpowered := by
  rcases eq_readerOf_or_keypadOf p with e | e <;> rw [h] at e <;> subst e
  · exact State.portPowerLost_unpowered _ _ (State.portPowerLost_state s _)
  · exact State.portPowerLost_state _ _

theorem State.portPowerLost_session_of_not_engaged (h : (s.device p).state ≠ .engaged) (x : Station) :
    (s.portPowerLost p).session x = s.session x := by
  rw [State.portPowerLost_eq, if_neg (c := s.engaged p = true) (by simpa [State.engaged] using h)]
  split
  · rfl
  · exact State.unpower_session s p x

/-- A session that is IDLE is not concerned by the loss. -/
theorem State.portPowerLost_of_idle (h : (s.session (stationOf p)).state = .idle) :
    (s.portPowerLost p).session (stationOf p) = s.session (stationOf p) ∧ (s.portPowerLost p).textOwed = s.textOwed := by
  rw [State.portPowerLost_eq, State.sessionLoss_of_idle _ _ (by rwa [State.unpower_session])]
  split
  · exact ⟨rfl, rfl⟩
  · rw [ite_self]
    exact ⟨State.unpower_session s p _, State.unpower_textOwed s p⟩

variable {s st p}

/-- A RUNNING session that does not deliver ends as an ENGAGED device of its station loses its power (R24). -/
theorem State.ends_portPowerLost (h : (s.device p).state = .engaged) (hr : (s.session (stationOf p)).state = .running)
    (hd : (s.session (stationOf p)).phase ≠ some .delivering) :
    Ends (s.session (stationOf p)) ((s.portPowerLost p).session (stationOf p)) .deviceLost := by
  rw [State.portPowerLost_eq, if_neg (by rw [h]; decide), if_pos (by simp [State.engaged, h]),
    State.sessionLoss_of_running _ _ (by rwa [State.unpower_session]) (by rwa [State.unpower_session])]
  simpa using (s.unpower p).ends_enterEnding (stationOf p) .deviceLost

theorem Ends.portPowerLost {before : Session} {cause : EndCause} (h : Ends before (s.session st) cause)
    (hp : stationOf p = st) : Ends before ((s.portPowerLost p).session st) cause := by
  have g : Ends before ((s.unpower p).session st) cause := by rwa [State.unpower_session]
  rw [State.portPowerLost_eq]
  split
  · exact h
  · split
    · exact g.sessionLoss hp
    · exact g

/-- The same for the two devices of a station whose supply leaves ON. -/
theorem State.ends_powerLost
    (h : (s.device (readerOf st)).state = .engaged ∨ (s.device (keypadOf st)).state = .engaged)
    (hr : (s.session st).state = .running) (hd : (s.session st).phase ≠ some .delivering) :
    Ends (s.session st) ((s.powerLost st).session st) .deviceLost := by
  unfold State.powerLost
  by_cases e : (s.device (readerOf st)).state = .engaged
  · have g := State.ends_portPowerLost e (by simpa using hr) (by simpa using hd)
    rw [stationOf_readerOf] at g
    exact g.portPowerLost (stationOf_keypadOf st)
  · have same := State.portPowerLost_session_of_not_engaged s (readerOf st) e st
    have keypad : ((s.portPowerLost (readerOf st)).device (keypadOf st)).state = .engaged := by
      rw [State.portPowerLost_eq, if_neg (c := s.engaged _ = true) (by simpa [State.engaged] using e)]
      split
      · exact h.resolve_left e
      · rw [(edited_unpower s _).device_eq (readerOf_ne_keypadOf st st).symm]
        exact h.resolve_left e
    have g := State.ends_portPowerLost keypad (by rwa [stationOf_keypadOf, same]) (by rwa [stationOf_keypadOf, same])
    rwa [stationOf_keypadOf, same] at g

variable (s st p)

theorem State.powerLost_of_idle (h : (s.session st).state = .idle) :
    (s.powerLost st).session st = s.session st ∧ (s.powerLost st).textOwed = s.textOwed := by
  obtain ⟨h1, t1⟩ := State.portPowerLost_of_idle s (readerOf st) (by simpa using h)
  rw [stationOf_readerOf] at h1
  obtain ⟨h2, t2⟩ := State.portPowerLost_of_idle (s.portPowerLost (readerOf st)) (keypadOf st)
    (by rw [stationOf_keypadOf, h1, h])
  rw [stationOf_keypadOf] at h2
  exact ⟨h2.trans h1, t2.trans t1⟩

/-! ### The awaiting-probe set (R165) -/

/-- What concerns the counter alone. -/
def Scope.counterOnly : Scope := ⟨fun _ => False, fun _ => False, fun _ => False, True⟩

theorem edited_leaveAwaitingStation_only : Edited .counterOnly s (s.leaveAwaitingStation st) :=
  edited_leaveAwaitingStation s st trivial

/-- Outside STARTING the set alone changes. -/
theorem State.leaveAwaitingStation_spec (h : s.counter ≠ .starting) :
    ∃ a, s.leaveAwaitingStation st = { s with awaiting := a } := by
  unfold State.leaveAwaitingStation State.openIfProbed
  split
  · exact ⟨_, if_neg fun c => h c.1⟩
  · exact ⟨_, rfl⟩

/-! ### A supply switched off (R156, R158) -/

/-- The devices of a supply that leaves a state lose their power when it was ON. -/
def State.powerFollows (before : SupplyState) : State := if before = .on then s.powerLost st else s

/-- The supply as it enters OFF, before its devices are told. -/
def State.entersOff (held : Bool) (reason : SupplyReason) : State :=
  ((s.removeDeadline (.supply st) .supply).setSupply st
    { s.supply st with state := .off, overRun := 0, draw := false, heldOff := held }).noteSupply st (s.supply st).state
      reason

theorem State.switchOff_eq (held : Bool) (reason : SupplyReason) : s.switchOff st held reason =
    ((s.entersOff st held reason).powerFollows st (s.supply st).state).leaveAwaitingStation st := by
  rw [State.switchOff, State.entersOff, State.setDraw_false]
  simp only [State.modifySupply_eq, State.setSupply_setSupply, State.supply_setSupply]
  rfl

theorem edited_powerFollows (before : SupplyState) : Edited (.at st) s (s.powerFollows st before) := by
  unfold State.powerFollows
  split
  · exact edited_powerLost s st
  · exact .refl

theorem State.powerFollows_supply (before : SupplyState) (x : Station) :
    (s.powerFollows st before).supply x = s.supply x := (edited_powerFollows s st before).supply_eq not_false

theorem State.powerFollows_deadlineOf (before : SupplyState) (x : Station) (k : DeadlineKind) :
    (s.powerFollows st before).deadlineOf (.supply x) k = s.deadlineOf (.supply x) k :=
  (edited_powerFollows s st before).deadlineOf_eq (o := .supply x) not_false k

theorem State.powerFollows_state (h : stationOf p = st) : ((s.powerFollows st .on).device p).state = .unpowered :=
  State.powerLost_state s st p h

theorem State.powerFollows_of_idle (before : SupplyState) (h : (s.session st).state = .idle) :
    (s.powerFollows st before).session st = s.session st ∧ (s.powerFollows st before).textOwed = s.textOwed := by
  unfold State.powerFollows
  split
  · exact State.powerLost_of_idle s st h
  · exact ⟨rfl, rfl⟩

theorem State.entersOff_supply (held : Bool) (reason : SupplyReason) : (s.entersOff st held reason).supply st =
    { s.supply st with state := .off, overRun := 0, draw := false, heldOff := held } := by simp [State.entersOff]

theorem State.entersOff_deadlineOf (held : Bool) (reason : SupplyReason) :
    (s.entersOff st held reason).deadlineOf (.supply st) .supply = none := by simp [State.entersOff]

theorem State.switchOff_supply (held : Bool) (reason : SupplyReason) : (s.switchOff st held reason).supply st =
    { s.supply st with state := .off, overRun := 0, draw := false, heldOff := held } := by
  rw [State.switchOff_eq, (edited_leaveAwaitingStation_only _ st).supply_eq not_false, State.powerFollows_supply,
    State.entersOff_supply]

theorem State.switchOff_deadlineOf (held : Bool) (reason : SupplyReason) :
    (s.switchOff st held reason).deadlineOf (.supply st) .supply = none := by
  rw [State.switchOff_eq, (edited_leaveAwaitingStation_only _ st).deadlineOf_eq (o := .supply st) not_false,
    State.powerFollows_deadlineOf, State.entersOff_deadlineOf]

theorem State.switchOff_state (held : Bool) (reason : SupplyReason) (on : (s.supply st).state = .on)
    (h : stationOf p = st) : ((s.switchOff st held reason).device p).state = .unpowered := by
  rw [State.switchOff_eq, (edited_leaveAwaitingStation_only _ st).device_eq not_false, on,
    State.powerFollows_state _ _ _ h]

/-! ### SUPPLY-OFF and SUPPLY-RESTORE (R156, R157) -/

variable {s st p} {f : Frame} {b : Byte}

theorem State.supplyOff_of_busy (hb : stationOfByte b = some st) (h : (s.session st).state ≠ .idle) :
    s.supplyOff f b = s.answer f .busy false [(s.supply st).state.code, byteOf (s.supply st).tripCount] := by
  rw [State.supplyOff, hb]
  exact if_pos h

theorem State.supplyOff_of_idle (hb : stationOfByte b = some st) (h : (s.session st).state = .idle) :
    s.supplyOff f b = s.offSupply f st := by
  rw [State.supplyOff, hb]
  exact if_neg (by simp [h])

theorem State.offSupply_of_switchable
    (h : (s.supply st).state = .trial ∨ (s.supply st).state = .on ∨ (s.supply st).state = .cooling) :
    s.offSupply f st = (s.answer f .done false [1, byteOf (s.supply st).tripCount]).switchOff st true .switchedOff := by
  unfold State.offSupply
  rcases h with h | h | h <;> simp only [h] <;> rfl

/-- What a command on a supply leaves of the other stations and of the store. -/
theorem supplyCommandFrame {t : State} {i : Item} (e : Edited (.power st) (s.takeHead.append i) t) :
    (∀ y, y ≠ st → (t.whole s).supply y = s.supply y ∧ (t.whole s).session y = s.session y)
      ∧ (∀ p, stationOf p ≠ st → (t.whole s).device p = s.device p) ∧ (t.whole s).tick = s.tick
      ∧ SameStore s (t.whole s) := by
  refine ⟨fun y hy => ⟨?_, ?_⟩, fun p hp => ?_, ?_, ?_⟩
  · rw [State.whole_supply, e.supply_eq hy]
    simp
  · rw [State.whole_session, e.session_eq hy]
    simp
  · rw [State.whole_device, e.device_eq hp]
    simp
  · rw [State.whole_tick, e.untouched.tick]
    simp
  · refine s.sameStore_takeHead.trans (e.untouched.sameStore.trans (State.sameStore_whole t s))

end Sys2Proof.Machine
end

section
/-! PROOFS. The commands on a supply, and the judging of a sample (R149, R151, R152, R156, R157). -/

namespace Sys2Proof.Machine

variable {s : State} {st : Station} {f : Frame} {b : Byte}

/-- Settles O15. -/
theorem supplyOffSwitchesOff : Obligations.SupplyOffSwitchesOff := by
  intro s q b st ht hb
  have row : exec (.supplyOff q [b]) s = commandRow ⟨0x0C, q, [b]⟩ (fun s => s.supplyOff ⟨0x0C, q, [b]⟩ b) s :=
    exec_supplyOff s q [b] rfl
  have idle : ∀ h : (s.session st).state = .idle,
      s.takeHead.supplyOff ⟨0x0C, q, [b]⟩ b = s.takeHead.offSupply ⟨0x0C, q, [b]⟩ st := fun h =>
    State.supplyOff_of_idle hb (by rwa [State.takeHead_session])
  refine ⟨fun h => ?_, fun h hl => ?_, fun h ho => ?_, fun h hs => ?_⟩
  · refine exec_of_answer row ht ?_
    rw [State.supplyOff_of_busy hb (by rwa [State.takeHead_session]), State.takeHead_supply]
  · refine exec_of_answer row ht ?_
    rw [idle h, State.offSupply]
    simp only [State.takeHead_supply, hl]
    rfl
  · refine exec_of_counter row ht ?_ (by simp [State.append])
    rw [idle h, State.offSupply]
    simp only [State.takeHead_supply, ho]
    rw [State.supplyReply, State.answer_eq _ _ _ _ _ (k := 0x8C)]
    rfl
  · have e : s.takeHead.supplyOff ⟨0x0C, q, [b]⟩ b =
        (s.takeHead.answer ⟨0x0C, q, [b]⟩ .done false [1, byteOf (s.supply st).tripCount]).switchOff st true
          .switchedOff := by
      rw [idle h, State.offSupply_of_switchable (by simpa using hs), State.takeHead_supply]
    have hsup : ((s.takeHead.append (.reply q 0x8C .done false [1, byteOf (s.supply st).tripCount])).supply st) =
        s.supply st := by simp
    have edit := edited_switchOff (s.takeHead.append (.reply q 0x8C .done false [1, byteOf (s.supply st).tripCount])) st
      true .switchedOff (by rw [hsup]; rcases hs with h | h | h <;> rw [h] <;> decide)
    obtain ⟨others, devices, tick, store⟩ := supplyCommandFrame edit
    refine ⟨_, exec_of_reply row ht (g := fun u => u.switchOff st true .switchedOff) e, ?_, ?_, ?_, fun on => ⟨?_, ?_⟩,
      others, devices, tick, store⟩
    · rw [State.whole_supply, State.switchOff_supply, hsup]
    · rw [State.whole_deadlineOf _ _ _ _ (by simp), State.switchOff_deadlineOf]
    · exact State.shows_whole _ _ rfl (edit.mem_outbound rfl (State.mem_append _ _))
    · rw [State.whole_device, State.switchOff_state _ _ _ _ _ (by rwa [hsup]) (stationOf_readerOf st)]
    · rw [State.whole_device, State.switchOff_state _ _ _ _ _ (by rwa [hsup]) (stationOf_keypadOf st)]

/-! ### SUPPLY-RESTORE (R157) -/

theorem State.supplyRestore_unchanged (hb : stationOfByte b = some st)
    (h : (s.supply st).state = .trial ∨ (s.supply st).state = .on ∨ (s.supply st).state = .cooling) :
    s.supplyRestore f b =
      s.answer f .done false [(s.supply st).state.code, byteOf (s.supply st).tripCount] := by
  unfold State.supplyRestore
  rw [hb]
  rcases h with h | h | h <;> simp only [h] <;> rfl

theorem State.supplyRestore_of_off (hb : stationOfByte b = some st)
    (h : (s.supply st).state = .off ∨ (s.supply st).state = .locked) :
    s.supplyRestore f b = if s.counter = .closed then s.restoreClosed f st else s.restoreTrial f st := by
  unfold State.supplyRestore
  rw [hb]
  rcases h with h | h <;> simp only [h]

/-- The supply restored, before it enters TRIAL. -/
def State.cleared (s : State) (st : Station) : State :=
  s.setSupply st { s.supply st with tripCount := 0, heldOff := false }

theorem State.restoreTrial_eq : s.restoreTrial f st =
    ((s.cleared st).answer f .done false [2, 0]).enterTrial st .restored := rfl

/-- The state with another outbound queue. -/
def State.withOutbound (s : State) (o : List Item) : State := { s with outbound := o }

theorem State.restoreClosed_spec (s : State) (f : Frame) (st : Station) : ∃ o, s.restoreClosed f st =
    (s.setSupply st { s.supply st with state := .off, tripCount := 0, heldOff := false }).withOutbound o
      ∧ ∀ i, i.key = none → i ∈ (s.answer f .done false [1, 0]).outbound → i ∈ o := by
  unfold State.restoreClosed
  dsimp only
  split
  · exact ⟨_, rfl, fun i _ hi => hi⟩
  · exact ⟨_, rfl, fun i k hi => mem_coalesce_of_mem _ _ _ i _ hi (by rw [k]; simp)⟩

theorem State.mem_enterTrial_of_mem {i : Item} (reason : SupplyReason) (hi : i.key = none) (h : i ∈ s.outbound) :
    i ∈ (s.enterTrial st reason).outbound :=
  mem_coalesce_of_mem _ _ _ i _ h (by rw [hi]; simp)

theorem State.enterTrial_supply_of_ne (reason : SupplyReason) {y : Station} (h : y ≠ st) :
    (s.enterTrial st reason).supply y = s.supply y := by
  simp [State.enterTrial_eq, State.placeDeadline, State.supply_setSupply_of_ne s h]

@[simp] theorem State.enterTrial_tick (s : State) (st : Station) (reason : SupplyReason) :
    (s.enterTrial st reason).tick = s.tick := by simp [State.enterTrial_eq, State.placeDeadline]

theorem State.sameStore_enterTrial (s : State) (st : Station) (reason : SupplyReason) :
    SameStore s (s.enterTrial st reason) := by
  simp [SameStore, State.enterTrial_eq, State.placeDeadline, State.noteSupply]

/-- Settles O16. -/
theorem supplyRestoreStartsAgain : Obligations.SupplyRestoreStartsAgain := by
  intro s q b st ht hb
  have row : exec (.supplyRestore q [b]) s =
      commandRow ⟨0x0D, q, [b]⟩ (fun s => s.supplyRestore ⟨0x0D, q, [b]⟩ b) s := exec_supplyRestore s q [b] rfl
  refine ⟨fun h => ?_, fun h hc => ?_, fun h hc => ?_⟩
  · refine exec_of_answer row ht ?_
    rw [State.supplyRestore_unchanged hb (by simpa using h), State.takeHead_supply]
  · have e : s.takeHead.supplyRestore ⟨0x0D, q, [b]⟩ b =
        ((s.takeHead.cleared st).append (.reply q 0x8D .done false [2, 0])).enterTrial st .restored := by
      rw [State.supplyRestore_of_off hb (by simpa using h), if_neg (by simpa using hc), State.restoreTrial_eq,
        State.answer_eq _ _ _ _ _ (k := 0x8D)]
    refine ⟨_, exec_of_counter row ht e (by simp [State.cleared]), ?_, ?_, ?_, fun y hy => ?_, ?_, ?_, ?_, ?_, ?_⟩
    · simp [State.cleared]
    · rw [State.beginNext_deadlineOf, State.enterTrial_deadlineOf]
      simp [State.cleared]
    · exact State.shows_beginNext _ _ (.inl (State.mem_enterTrial_of_mem _ rfl (State.mem_append _ _)))
    · simp [State.enterTrial_supply_of_ne _ hy, State.cleared, State.supply_setSupply_of_ne _ hy]
    · simp [State.cleared]
    · simp [State.cleared]
    · simp [State.cleared]
    · simp [State.cleared]
    · refine SameStore.trans ?_ (State.sameStore_beginNext _)
      refine SameStore.trans ?_ (State.sameStore_enterTrial _ st _)
      simp [SameStore, State.cleared]
  · obtain ⟨o, e', mem⟩ := State.restoreClosed_spec s.takeHead ⟨0x0D, q, [b]⟩ st
    rw [State.answer_eq _ _ _ _ _ (k := 0x8D)] at mem
    have e := (State.supplyRestore_of_off (f := ⟨0x0D, q, [b]⟩) hb (by simpa using h)).trans
      ((if_pos (by simpa using hc)).trans e')
    refine ⟨_, exec_of_counter row ht e (by simp [State.withOutbound]), ?_, ?_, fun y hy => ?_, ?_, ?_, ?_, ?_, ?_, ?_⟩
    · rw [State.beginNext_supply]
      exact (State.supply_setSupply _ _ _).trans (by rw [State.takeHead_supply])
    · exact State.shows_beginNext _ _ (.inl (mem _ rfl (State.mem_append _ _)))
    · rw [State.beginNext_supply]
      exact (State.supply_setSupply_of_ne _ hy _).trans (s.takeHead_supply y)
    all_goals simp [SameStore, State.withOutbound]

/-! ### A supply that trips (R151, R152) -/

variable (s st)

/-- The record of a supply that has just tripped. -/
def Supply.trippedOff (r : Supply) : Supply :=
  { r with
    draw := false, overRun := 0, tripCount := r.tripCount + 1
    state := if r.tripCount + 1 = 3 then .locked else .cooling }

/-- The supply as it trips, before its cool-down and its notice. -/
def State.trippedRecord : State :=
  (s.removeDeadline (.supply st) .supply).setSupply st (s.supply st).trippedOff

/-- The supply as it trips, before its devices are told. -/
def State.entersTripped : State :=
  (if (s.supply st).tripCount + 1 = 3 then s.trippedRecord st
    else (s.trippedRecord st).placeDeadline (.supply st) .supply 5000).noteSupply st (s.supply st).state .tripped

theorem State.trip_eq : s.trip st = if (s.supply st).tripCount + 1 = 3 then
    ((s.entersTripped st).powerFollows st (s.supply st).state).leaveAwaitingStation st
    else (s.entersTripped st).powerFollows st (s.supply st).state := by
  have g : ({ s.supply st with draw := false } : Supply).tripped = (s.supply st).trippedOff := rfl
  have l : ((s.supply st).trippedOff.state == .locked) = decide ((s.supply st).tripCount + 1 = 3) := by
    by_cases h : (s.supply st).tripCount + 1 = 3 <;> simp [Supply.trippedOff, h]
  unfold State.trip State.entersTripped State.trippedRecord
  simp only [State.setDraw_false, State.modifySupply_eq, State.setSupply_setSupply, State.supply_setSupply,
    State.removeDeadline_supply, g, l, decide_eq_true_eq]
  rfl

theorem State.entersTripped_supply : (s.entersTripped st).supply st = (s.supply st).trippedOff := by
  rw [State.entersTripped, State.noteSupply_supply]
  split <;> simp [State.trippedRecord, State.placeDeadline]

theorem State.entersTripped_deadlineOf : (s.entersTripped st).deadlineOf (.supply st) .supply =
    if (s.supply st).tripCount + 1 = 3 then none else some (ahead s.tick 5000) := by
  rw [State.entersTripped, State.noteSupply_deadlineOf]
  split <;> simp [State.trippedRecord]

theorem State.entersTripped_session (x : Station) : (s.entersTripped st).session x = s.session x := by
  rw [State.entersTripped, State.noteSupply_session]
  split <;> simp [State.trippedRecord, State.placeDeadline]

theorem State.entersTripped_device (x : Port) : (s.entersTripped st).device x = s.device x := by
  rw [State.entersTripped, State.noteSupply_device]
  split <;> simp [State.trippedRecord, State.placeDeadline]

/-- What follows the trip's notice concerns the devices, the session and the counter. -/
theorem State.trip_after : ∃ u, u = (s.entersTripped st).powerFollows st (s.supply st).state
    ∧ Edited .counterOnly u (s.trip st) := by
  refine ⟨_, rfl, ?_⟩
  rw [State.trip_eq]
  split
  · exact edited_leaveAwaitingStation_only _ st
  · exact .refl

theorem State.trip_supply : (s.trip st).supply st = (s.supply st).trippedOff := by
  obtain ⟨u, rfl, e⟩ := s.trip_after st
  rw [e.supply_eq not_false, State.powerFollows_supply, State.entersTripped_supply]

theorem State.trip_deadlineOf : (s.trip st).deadlineOf (.supply st) .supply =
    if (s.supply st).tripCount + 1 = 3 then none else some (ahead s.tick 5000) := by
  obtain ⟨u, rfl, e⟩ := s.trip_after st
  rw [e.deadlineOf_eq (o := .supply st) not_false, State.powerFollows_deadlineOf, State.entersTripped_deadlineOf]

variable {s st}

/-- A supply that trips in ON takes the power of its devices, and ends a session that held one (R119, R24). -/
theorem State.trip_of_on (on : (s.supply st).state = .on) :
    (∀ p, stationOf p = st → ((s.trip st).device p).state = .unpowered)
      ∧ ((s.session st).state = .running → (s.session st).phase ≠ some .delivering →
        ((s.device (readerOf st)).state = .engaged ∨ (s.device (keypadOf st)).state = .engaged) →
        Ends (s.session st) ((s.trip st).session st) .deviceLost) := by
  obtain ⟨u, hu, e⟩ := s.trip_after st
  rw [on, State.powerFollows, if_pos rfl] at hu
  subst hu
  refine ⟨fun p hp => ?_, fun hr hd engaged => ?_⟩
  · rw [e.device_eq not_false, State.powerLost_state _ _ _ hp]
  · have g := State.ends_powerLost (s := s.entersTripped st) (st := st)
      (by simpa only [State.entersTripped_device] using engaged) (by rwa [State.entersTripped_session])
      (by rwa [State.entersTripped_session])
    rw [State.entersTripped_session] at g
    rwa [e.session_eq not_false]

/-! ### A sample judged (R149, R151) -/

/-- The supply with its sample and its draw stored, before the over run is judged (R149). -/
def State.sampled (s : State) (st : Station) (c : SenseCode) : State :=
  (s.setSupply st { s.supply st with lastSample := some c }).setDraw st (decide (s.settings.lowThreshold ≤ 2 * c.toNat))

variable (s st) (c : SenseCode)

theorem State.takeSample_eq : s.takeSample st c = (s.sampled st c).judgeSample st c := rfl

theorem State.setDraw_spec (draw : Bool) : ∃ n, s.setDraw st draw =
    { s.setSupply st { s.supply st with draw := draw } with nextDue := n } := by
  unfold State.setDraw State.hastenProbe
  dsimp only
  split
  · split
    · split
      · exact ⟨_, by rw [State.dueWithin_eq, State.dueWithin_eq]; rfl⟩
      · exact ⟨_, by rw [State.dueWithin_eq]; rfl⟩
    · split
      · exact ⟨_, by rw [State.dueWithin_eq]; rfl⟩
      · exact ⟨_, rfl⟩
  · exact ⟨_, rfl⟩

theorem State.sampled_spec : ∃ n, s.sampled st c = { s.setSupply st { s.supply st with
    lastSample := some c, draw := decide (s.settings.lowThreshold ≤ 2 * c.toNat) } with nextDue := n } := by
  obtain ⟨n, h⟩ := State.setDraw_spec (s.setSupply st { s.supply st with lastSample := some c }) st
    (decide (s.settings.lowThreshold ≤ 2 * c.toNat))
  refine ⟨n, ?_⟩
  rw [State.sampled, h, State.setSupply_setSupply, State.supply_setSupply]

@[simp] theorem State.sampled_supply : (s.sampled st c).supply st = { s.supply st with
    lastSample := some c, draw := decide (s.settings.lowThreshold ≤ 2 * c.toNat) } := by
  obtain ⟨n, h⟩ := s.sampled_spec st c
  rw [h]
  exact State.supply_setSupply _ _ _

@[simp] theorem State.sampled_tick : (s.sampled st c).tick = s.tick := by
  obtain ⟨n, h⟩ := s.sampled_spec st c
  rw [h]
  rfl

@[simp] theorem State.sampled_session (x : Station) : (s.sampled st c).session x = s.session x := by
  obtain ⟨n, h⟩ := s.sampled_spec st c
  rw [h]
  rfl

@[simp] theorem State.sampled_device (p : Port) : (s.sampled st c).device p = s.device p := by
  obtain ⟨n, h⟩ := s.sampled_spec st c
  rw [h]
  rfl

@[simp] theorem State.sampled_settings : (s.sampled st c).settings = s.settings := by
  obtain ⟨n, h⟩ := s.sampled_spec st c
  rw [h]
  rfl

variable {s st c}

theorem State.takeSample_within (h : 2 * c.toNat ≤ s.settings.highThreshold) : s.takeSample st c =
    (s.sampled st c).setSupply st { (s.sampled st c).supply st with overRun := 0 } := by
  rw [State.takeSample_eq, State.judgeSample, if_pos (by simpa [milliamps] using h)]
  rfl

theorem State.takeSample_over (h : s.settings.highThreshold < 2 * c.toNat) (run : (s.supply st).overRun < 2) :
    s.takeSample st c = (s.sampled st c).setSupply st
      { (s.sampled st c).supply st with overRun := (s.supply st).overRun + 1 } := by
  rw [State.takeSample_eq, State.judgeSample, if_neg (by simpa [milliamps] using h),
    if_pos (by rw [State.sampled_supply]; exact Nat.add_lt_of_lt_sub run)]
  simp only [State.modifySupply_eq, State.sampled_supply]

theorem State.takeSample_trips (h : s.settings.highThreshold < 2 * c.toNat) (run : 2 ≤ (s.supply st).overRun) :
    s.takeSample st c = (s.sampled st c).trip st := by
  rw [State.takeSample_eq, State.judgeSample, if_neg (by simpa [milliamps] using h),
    if_neg (by rw [State.sampled_supply]; exact Nat.not_lt.2 (Nat.add_le_add_right run 1))]

/-! ### The slot of a sample (R149) -/

variable {u : State}

/-- The slot reached: the samples on the way taken, and the sense input at the level of the sample. -/
theorem State.reachSlot_spec (h : s.reachSlot st c = some u) : u.tick.toNat % 10 = st.val ∧ u.slotServed = true
    ∧ (∀ x, u.session x = s.session x) ∧ (∀ p, u.device p = s.device p) ∧ SameStore s u
    ∧ (u.supply st).state = (s.supply st).state := by
  obtain ⟨d, hd, le, slot, -⟩ := slotAhead_spec s.tick s.slotServed st
  obtain ⟨-, at_⟩ := (openSlot_iff _ _ _ _).1 slot
  rw [State.reachSlot, hd] at h
  obtain ⟨v, r, rfl⟩ := Option.map_eq_some_iff.1 h
  have tick : v.tick = ahead s.tick d := by
    rw [State.reach_tick r, State.tickAt]
    split
    · rename_i due
      have zero := (isDue_ahead_iff_distance_eq_zero s.tick (by omega)).1 due
      rw [distance_ahead s.tick (by omega)] at zero
      rw [zero, ahead_zero]
    · rfl
  have e := (State.reach_some r).1
  refine ⟨(congrArg (fun t : Tick => t.toNat % 10) tick).trans at_, rfl, fun x => ?_, fun p => ?_, ?_, (State.reach_keeps r st).1⟩
  · rw [e]; rfl
  · rw [e]; rfl
  · rw [e]; exact ⟨rfl, rfl, rfl, rfl, rfl, rfl⟩

/-- The row of a sample whose slot can be reached. -/
theorem exec_supplySample (h : (s.supply st).state = .trial ∨ (s.supply st).state = .on)
    (r : s.reachSlot st c = some u) : exec (.supplySample st c) s = .next ((u.takeSample st c).whole s) := by
  have e : s.sampleAtSlot st c = u.takeSample st c := by
    rw [State.sampleAtSlot, if_pos ((SupplyState.sampled_iff _).2 h), r]
  show eventRow (fun s => s.sampleAtSlot st c) s = _
  rw [eventRow, e]

/-- Settles O31. -/
theorem sampleIsJudged : Obligations.SampleIsJudged := by
  refine ⟨fun s t h => ?_, fun s u st c h r => ?_⟩
  · simp only [← State.passesSlot_iff, ← State.quiet_iff]
    refine ⟨by rw [s.exists_reach_iff h, State.entryBefore_eq_false_iff], fun u r => ?_⟩
    obtain ⟨same, dues, owes, supply⟩ := s.reach_spec h r
    refine ⟨same, dues, owes, fun st => ⟨fun passed => ?_, fun passed => ?_⟩⟩
    · rw [supply, if_pos passed]
      rfl
    · rw [supply, if_neg passed]
  · obtain ⟨slot, served, session, device, store, state⟩ := State.reachSlot_spec r
    have settings : u.settings = s.settings := store.1
    have draw : decide (u.settings.lowThreshold ≤ 2 * c.toNat) = decide (s.settings.lowThreshold ≤ 2 * c.toNat) := by
      rw [settings]
    have edit := edited_takeSample u st c (by rw [state]; rcases h with h | h <;> rw [h] <;> decide)
    refine ⟨slot, served, _, exec_supplySample h r, ?_, fun within => ?_, fun above run => ?_, fun above run => ⟨?_, ?_, fun on =>
      ⟨?_, ?_, fun hr hd engaged => ?_⟩⟩, fun y hy => ⟨?_, ?_⟩, fun p hp => ?_, ?_⟩
    · rw [State.whole_tick, edit.untouched.tick]
    · rw [State.whole_supply, State.takeSample_within (by rwa [settings]), State.supply_setSupply, State.sampled_supply,
        draw]
    · rw [State.whole_supply, State.takeSample_over (by rwa [settings]) run, State.supply_setSupply, State.sampled_supply,
        draw]
    · rw [State.whole_supply, State.takeSample_trips (by rwa [settings]) run, State.trip_supply, State.sampled_supply]
      rfl
    · rw [State.whole_deadlineOf _ _ _ _ (by simp), State.takeSample_trips (by rwa [settings]) run, State.trip_deadlineOf,
        State.sampled_supply, State.sampled_tick]
    · rw [State.whole_device, State.takeSample_trips (by rwa [settings]) run]
      exact (State.trip_of_on (by rwa [State.sampled_supply])).1 _ (stationOf_readerOf st)
    · rw [State.whole_device, State.takeSample_trips (by rwa [settings]) run]
      exact (State.trip_of_on (by rwa [State.sampled_supply])).1 _ (stationOf_keypadOf st)
    · have g := (State.trip_of_on (s := u.sampled st c) (st := st) (by rwa [State.sampled_supply])).2
      simp only [State.sampled_session, State.sampled_device, session, device] at g
      rw [State.whole_session, State.takeSample_trips (by rwa [settings]) run]
      exact g hr hd engaged
    · rw [State.whole_supply, edit.supply_eq hy]
    · rw [State.whole_session, edit.session_eq hy, session]
    · rw [State.whole_device, edit.device_eq hp, device]
    · exact store.trans (edit.untouched.sameStore.trans (State.sameStore_whole _ s))

end Sys2Proof.Machine
end

section
/-! PROOFS. The supplies together: CLOSE-COUNTER (R158, R173) and the resets that take effect (R164, R178). -/

namespace Sys2Proof.Machine

variable (s : State) (st : Station) (p : Port)

/-! ### Acting on every station -/

/-- What each station's part keeps is kept by the whole. -/
theorem State.forStations_induct {P : State → Prop} {f : Station → State → State} (h : P s)
    (keep : ∀ st s, P s → P (f st s)) : P (s.forStations f) :=
  List.foldlRecOn _ _ h fun s hs st _ => keep st s hs

theorem State.allIdle_iff : s.allIdle = true ↔ ∀ st, (s.session st).state = .idle := by
  simp [State.allIdle, mem_stations]

/-! ### The supplies closed (R158) -/

/-- CLOSE-COUNTER at one station. -/
def State.closeSupply (st : Station) (s : State) : State :=
  if (s.supply st).state.switchable then s.switchOff st false .counterClosed else s

theorem State.closeSupplies_eq : s.closeSupplies = s.forStations State.closeSupply := rfl

theorem SupplyState.switchable_iff (x : SupplyState) : x.switchable = true ↔ ¬(x = .off ∨ x = .locked) := by
  cases x <;> simp [SupplyState.switchable]

theorem edited_closeSupply : Edited (.power st) s (State.closeSupply st s) := by
  unfold State.closeSupply
  split
  · rename_i h
    exact edited_switchOff s st _ _ fun l => (SupplyState.switchable_iff _).1 h (.inr l)
  · exact .refl

theorem State.closeSupply_supply : (State.closeSupply st s).supply st =
    if (s.supply st).state = .off ∨ (s.supply st).state = .locked then s.supply st
    else { s.supply st with state := .off, overRun := 0, draw := false, heldOff := false } := by
  unfold State.closeSupply
  by_cases h : (s.supply st).state = .off ∨ (s.supply st).state = .locked
  · rw [if_pos h, if_neg (by rw [SupplyState.switchable_iff]; exact not_not_intro h)]
  · rw [if_neg h, if_pos ((SupplyState.switchable_iff _).2 h), State.switchOff_supply]

theorem State.closeSupply_state (on : (s.supply st).state = .on) (h : stationOf p = st) :
    ((State.closeSupply st s).device p).state = .unpowered := by
  rw [State.closeSupply, if_pos (by rw [on]; rfl), State.switchOff_state _ _ _ _ _ on h]

/-- With the supplies closed, each supply and its devices, seen from its station. -/
theorem State.closeSupplies_supply : s.closeSupplies.supply st =
    if (s.supply st).state = .off ∨ (s.supply st).state = .locked then s.supply st
    else { s.supply st with state := .off, overRun := 0, draw := false, heldOff := false } := by
  obtain ⟨u, before, after⟩ := edited_forStations_at (s := s) (f := State.closeSupply) (c := True) st fun y s h =>
    (edited_closeSupply s y).mono (Scope.power_within_others h)
  rw [State.closeSupplies_eq, after.supply_eq fun h => h rfl, State.closeSupply_supply,
    before.supply_eq fun h => h rfl]

theorem State.closeSupplies_state (on : (s.supply (stationOf p)).state = .on) :
    (s.closeSupplies.device p).state = .unpowered := by
  obtain ⟨u, before, after⟩ := edited_forStations_at (s := s) (f := State.closeSupply) (c := True) (stationOf p) fun y s h =>
    (edited_closeSupply s y).mono (Scope.power_within_others h)
  rw [State.closeSupplies_eq, after.device_eq fun h => h rfl]
  exact State.closeSupply_state _ _ p (by rw [before.supply_eq fun h => h rfl, on]) rfl

/-- What CLOSE-COUNTER leaves of the counter while the supplies are closed: every session is IDLE. -/
structure AtClosed (s : State) : Prop where
  idle : ∀ st, (s.session st).state = .idle
  counter : s.counter = .closed
  textOwed : s.textOwed = Vector.replicate 8 none
  supervision : s.deadlineOf .counter .supervision = none
  settle : s.deadlineOf .counter .settle = none

variable {s}

theorem AtClosed.closeSupply (h : AtClosed s) (st : Station) : AtClosed (State.closeSupply st s) := by
  unfold State.closeSupply
  split
  · have off : ∀ x, (s.entersOff st false .counterClosed).session x = s.session x := fun x => by simp [State.entersOff]
    have edit := edited_powerFollows (s.entersOff st false .counterClosed) st (s.supply st).state
    obtain ⟨same, owed⟩ := State.powerFollows_of_idle (s.entersOff st false .counterClosed) st (s.supply st).state
      (by rw [off, h.idle])
    have counter : ((s.entersOff st false .counterClosed).powerFollows st (s.supply st).state).counter = .closed := by
      rw [(edit.counter_eq not_false).1]
      simpa [State.entersOff] using h.counter
    obtain ⟨a, e⟩ := State.leaveAwaitingStation_spec _ st (by rw [counter]; decide)
    rw [State.switchOff_eq, e]
    refine ⟨fun x => ?_, counter, ?_, ?_, ?_⟩
    · show (((s.entersOff st false .counterClosed).powerFollows st (s.supply st).state).session x).state = _
      by_cases hx : x = st
      · rw [hx, same, off, h.idle]
      · rw [edit.session_eq hx, off, h.idle]
    · exact owed.trans (by simpa [State.entersOff] using h.textOwed)
    · refine (edit.deadlineOf_eq (o := .counter) not_false _).trans ?_
      rw [State.entersOff, State.noteSupply_deadlineOf, State.setSupply_deadlineOf,
        State.deadlineOf_removeDeadline_of_ne _ _ _ _ _ (by simp), h.supervision]
    · refine (edit.deadlineOf_eq (o := .counter) not_false _).trans ?_
      rw [State.entersOff, State.noteSupply_deadlineOf, State.setSupply_deadlineOf,
        State.deadlineOf_removeDeadline_of_ne _ _ _ _ _ (by simp), h.settle]
  · exact h

theorem AtClosed.closeSupplies (h : AtClosed s) : AtClosed s.closeSupplies :=
  State.forStations_induct s h fun st _ hs => hs.closeSupply st

/-! ### CLOSE-COUNTER (R173) -/

/-- The counter CLOSED, before the supplies are. -/
def State.toClosed (s : State) : State :=
  s.removeSupervision.removeSettle.clearTextOwed.changeCounter .closed .closeCommand

theorem State.enterClosed_eq (s : State) : s.enterClosed = s.toClosed.closeSupplies := rfl

theorem State.toClosed_spec (s : State) : ∃ o, s.toClosed = { s.removeSupervision.removeSettle with
    textOwed := Vector.replicate 8 none, counter := .closed, outbound := o } := ⟨_, rfl⟩

theorem State.toClosed_session (s : State) (x : Station) : s.toClosed.session x = s.session x := by
  obtain ⟨o, e⟩ := s.toClosed_spec
  rw [e]
  rfl

theorem State.toClosed_supply (s : State) (x : Station) : s.toClosed.supply x = s.supply x := by
  obtain ⟨o, e⟩ := s.toClosed_spec
  rw [e]
  rfl

theorem State.atClosed_toClosed (idle : ∀ st, (s.session st).state = .idle) : AtClosed s.toClosed := by
  refine ⟨fun x => by rw [State.toClosed_session, idle], rfl, ?_, ?_, ?_⟩
  · obtain ⟨o, e⟩ := s.toClosed_spec
    rw [e]
  · exact (State.deadlineOf_removeDeadline_of_ne _ .counter .counter .settle .supervision (by simp)).trans
      (State.deadlineOf_removeDeadline _ _ _)
  · exact State.deadlineOf_removeDeadline _ _ _

theorem edited_enterClosed (s : State) : Edited .all s s.enterClosed :=
  ((((edited_removeSupervision _ trivial).trans (edited_removeSettle _ trivial)).trans (.owedTexts _ .refl trivial)).trans
    (edited_changeCounter _ _ _ trivial)).trans (edited_closeSupplies _)

theorem State.closeCounter_of_open {f : Frame} (h1 : s.counter ≠ .starting) (h2 : s.counter ≠ .closed) :
    s.closeCounter f = if s.allIdle then (s.answer f .done false []).enterClosed else s.refuse f .busy := by
  unfold State.closeCounter
  split <;> simp_all

/-- Settles O19. -/
theorem closeCounterSwitchesTheSuppliesOff : Obligations.CloseCounterSwitchesTheSuppliesOff := by
  intro s q ht
  have row := exec_closeCounter s q
  refine ⟨fun h => ?_, fun h => ?_, fun h1 h2 ⟨st, busy⟩ => ?_, fun h1 h2 idle => ?_⟩
  · refine exec_of_answer row ht ?_
    simp only [State.closeCounter, State.takeHead_counter, h]
    rfl
  · refine exec_of_answer row ht ?_
    simp only [State.closeCounter, State.takeHead_counter, h]
  · refine exec_of_answer row ht ?_
    rw [State.closeCounter_of_open (by simpa using h1) (by simpa using h2), if_neg]
    · rfl
    · rw [State.allIdle_iff]
      exact fun idle => busy (by simpa using idle st)
  · have e : s.takeHead.closeCounter ⟨0x10, q, []⟩ = (s.takeHead.answer ⟨0x10, q, []⟩ .done false []).enterClosed := by
      rw [State.closeCounter_of_open (by simpa using h1) (by simpa using h2), if_pos]
      rw [State.allIdle_iff]
      simpa using idle
    have base : ∀ st, (s.takeHead.append (.reply q 0x90 .done false [])).supply st = s.supply st := by simp
    have edit := edited_enterClosed (s.takeHead.append (.reply q 0x90 .done false []))
    have done : AtClosed (s.takeHead.append (.reply q 0x90 .done false [])).enterClosed :=
      (State.atClosed_toClosed (by simpa using idle)).closeSupplies
    have whole := State.whole_of_ne (before := s) (.inl (by rw [done.counter]; decide))
    have run := exec_of_reply row ht (g := State.enterClosed) e (k := 0x90)
    refine ⟨_, run.trans (congrArg _ whole), ?_, ?_, ?_, ?_, fun st => ?_, fun p on => ?_, ?_, ?_, ?_⟩
    · rw [State.beginNext_counter, done.counter]
    · rw [State.beginNext_deadlineOf, done.supervision]
    · rw [State.beginNext_deadlineOf, done.settle]
    · rw [State.beginNext_textOwed, done.textOwed]
    · rw [State.beginNext_supply, State.enterClosed_eq, State.closeSupplies_supply, State.toClosed_supply, base]
      split <;> rfl
    · rw [State.beginNext_device, State.enterClosed_eq, State.closeSupplies_state _ _ (by rwa [State.toClosed_supply, base])]
    · exact edit.shows_beginNext rfl (State.mem_append _ _)
    · rw [State.beginNext_tick, edit.untouched.tick]
      simp
    · exact s.sameStore_takeHead.trans (edit.untouched.sameStore.trans (State.sameStore_beginNext _))

end Sys2Proof.Machine
end

section
/-! PROOFS. The entry to STARTING and the resets that take effect (R158, R164, R178). -/

namespace Sys2Proof.Machine

variable {s : State} {st : Station} {p : Port}

/-! ### The supplies started (R158) -/

/-- The start of one supply. -/
def State.startSupply (reason : SupplyReason) (st : Station) (s : State) : State :=
  if (s.supply st).state = .off ∧ (s.supply st).heldOff = false then s.enterTrial st reason else s

theorem State.startSupplies_eq (s : State) (reason : SupplyReason) :
    s.startSupplies reason = s.forStations (State.startSupply reason) := rfl

/-- Starting supplies changes the supplies, their deadlines and the notices. -/
structure Starts (s t : State) : Prop where
  same : t = { s with outbound := t.outbound, deadlines := t.deadlines, supplies := t.supplies }
  deadlineOf : ∀ o k, (∀ x, o ≠ .supply x) → t.deadlineOf o k = s.deadlineOf o k
  mem : ∀ i, i.key = none → i ∈ s.outbound → i ∈ t.outbound

theorem Starts.refl (s : State) : Starts s s := ⟨rfl, fun _ _ _ => rfl, fun _ _ h => h⟩

theorem Starts.trans {t u : State} (h : Starts s t) (g : Starts t u) : Starts s u := by
  refine ⟨?_, fun o k ho => (g.deadlineOf o k ho).trans (h.deadlineOf o k ho), fun i hi m => g.mem i hi (h.mem i hi m)⟩
  calc u = { t with outbound := u.outbound, deadlines := u.deadlines, supplies := u.supplies } := g.same
    _ = _ := by rw [h.same]

theorem starts_enterTrial (s : State) (st : Station) (reason : SupplyReason) : Starts s (s.enterTrial st reason) := by
  refine ⟨by rw [State.enterTrial_eq]; rfl, fun o k h => ?_, fun i hi m => State.mem_enterTrial_of_mem _ hi m⟩
  rw [State.enterTrial_eq, State.noteSupply_deadlineOf,
    State.deadlineOf_placeDeadline_of_ne _ _ _ _ _ _ fun e => h st e.1, State.setSupply_deadlineOf]

theorem starts_startSupply (s : State) (st : Station) (reason : SupplyReason) :
    Starts s (State.startSupply reason st s) := by
  unfold State.startSupply
  split
  · exact starts_enterTrial s st reason
  · exact .refl s

theorem starts_startSupplies (s : State) (reason : SupplyReason) : Starts s (s.startSupplies reason) :=
  State.forStations_induct (P := Starts s) s (.refl s) fun st t h => h.trans (starts_startSupply t st reason)

theorem edited_startSupply (s : State) (st : Station) (reason : SupplyReason) :
    Edited (.power st) s (State.startSupply reason st s) := by
  unfold State.startSupply
  split
  · rename_i h
    exact edited_enterTrial s st reason (by rw [h.1]; decide)
  · exact .refl

theorem State.startSupplies_supply (s : State) (reason : SupplyReason) (st : Station) :
    (s.startSupplies reason).supply st = if (s.supply st).state = .off ∧ (s.supply st).heldOff = false then
      { s.supply st with state := .trial, overRun := 0, draw := false } else s.supply st := by
  obtain ⟨u, before, after⟩ := edited_forStations_at (s := s) (f := State.startSupply reason) (c := True) st fun y s h =>
    (edited_startSupply s y reason).mono (Scope.power_within_others h)
  rw [State.startSupplies_eq, after.supply_eq fun h => h rfl, State.startSupply, before.supply_eq fun h => h rfl]
  split
  · rw [State.enterTrial_supply, before.supply_eq fun h => h rfl]
  · rw [before.supply_eq fun h => h rfl]

/-! ### The entry to STARTING (R164) -/

theorem State.noneAwaited_awaitedNow (s : State) : ({ s with awaiting := s.awaitedNow } : State).noneAwaited = true ↔
    ∀ st, (s.supply st).state = .off ∨ (s.supply st).state = .locked := by
  have at_ : ∀ p : Port, ({ s with awaiting := s.awaitedNow } : State).awaiting[p.val] =
      ((s.supply (stationOf p)).state != .off && (s.supply (stationOf p)).state != .locked) := fun p => by
    simp [State.awaitedNow]
  unfold State.noneAwaited
  simp only [List.all_eq_true, mem_ports, true_implies, at_]
  constructor
  · intro h st
    have := h (readerOf st)
    rw [stationOf_readerOf] at this
    by_contra c
    simp_all
  · intro h p
    rcases h (stationOf p) with e | e <;> simp [e]

/-- The state as STARTING is entered, before its supplies are started. -/
def State.toStartingCounter (s : State) (before : CounterState) (reason : CounterReason) : State :=
  { s with
    counter := .starting, wakeMask := Vector.replicate 8 ⟨false, false, false, false⟩, wakeCause := none,
    textOwed := Vector.replicate 8 none, resetPending := none }.noteCounter before .starting reason

/-- The awaited addresses settled and the deadlines of STARTING placed. -/
def State.placeStart (s : State) : State :=
  ({ s with awaiting := s.awaitedNow }.placeDeadline .counter .supervision 30000).placeDeadline .counter .settle
    Config.startCap

/-- The state in STARTING with its supplies started and its deadlines placed. -/
def State.inStarting (s : State) (before : CounterState) (reason : CounterReason) : State :=
  ((s.toStartingCounter before reason).startSupplies .started).placeStart

theorem State.enterStartingCounter_eq (s : State) (before : CounterState) (reason : CounterReason) :
    s.enterStartingCounter before reason = (s.inStarting before reason).openIfProbed := rfl

theorem State.toStartingCounter_spec (s : State) (before : CounterState) (reason : CounterReason) : ∃ o,
    s.toStartingCounter before reason = { s with
      outbound := o, counter := .starting, wakeMask := Vector.replicate 8 ⟨false, false, false, false⟩
      wakeCause := none, textOwed := Vector.replicate 8 none, resetPending := none } := ⟨_, rfl⟩

theorem State.placeStart_spec (s : State) : ∃ l w, s.placeStart = { s with deadlines := l, awaiting := w } :=
  ⟨_, _, rfl⟩

theorem State.placeStart_noneAwaited (s : State) : s.placeStart.noneAwaited = true ↔
    ∀ st, (s.supply st).state = .off ∨ (s.supply st).state = .locked := s.noneAwaited_awaitedNow

theorem State.placeStart_supply (s : State) (st : Station) : s.placeStart.supply st = s.supply st := rfl

theorem State.placeStart_supervision (s : State) :
    s.placeStart.deadlineOf .counter .supervision = some (ahead s.tick 30000) := by
  rw [State.placeStart, State.deadlineOf_placeDeadline_of_ne _ _ _ _ _ _ (by simp), State.deadlineOf_placeDeadline]

theorem State.placeStart_deadlineOf (s : State) {o : Owner} (h : o ≠ .counter) (k : DeadlineKind) :
    s.placeStart.deadlineOf o k = s.deadlineOf o k := by
  rw [State.placeStart, State.deadlineOf_placeDeadline_of_ne _ _ _ _ _ _ fun e => h e.1,
    State.deadlineOf_placeDeadline_of_ne _ _ _ _ _ _ fun e => h e.1]
  rfl

theorem State.openIfProbed_spec (s : State) : ∃ c o l a, s.openIfProbed =
    { s with counter := c, outbound := o, deadlines := l, awaiting := a } := by
  unfold State.openIfProbed
  split
  · exact ⟨_, _, _, _, rfl⟩
  · exact ⟨_, _, _, _, rfl⟩

theorem State.openIfProbed_supply (s : State) (st : Station) : s.openIfProbed.supply st = s.supply st := by
  obtain ⟨c, o, l, a, e⟩ := s.openIfProbed_spec
  rw [e]
  rfl

theorem State.openIfProbed_counter (s : State) (h : s.counter = .starting) :
    s.openIfProbed.counter = if s.noneAwaited then .opened else .starting := by
  unfold State.openIfProbed
  by_cases g : s.noneAwaited = true
  · rw [if_pos ⟨h, g⟩, if_pos g]
    rfl
  · rw [if_neg fun c => g c.2, if_neg g, h]

theorem State.openIfProbed_deadlineOf (s : State) (o : Owner) (k : DeadlineKind) (h : ¬(o = .counter ∧ k = .settle)) :
    s.openIfProbed.deadlineOf o k = s.deadlineOf o k := by
  unfold State.openIfProbed
  split
  · exact State.deadlineOf_removeDeadline_of_ne _ .counter o .settle k h
  · rfl

/-- What the entry to STARTING leaves. -/
theorem State.inStarting_same (s : State) (before : CounterState) (reason : CounterReason) : ∃ o l r w,
    s.inStarting before reason = { s with
      outbound := o, deadlines := l, supplies := r, awaiting := w, counter := .starting
      wakeMask := Vector.replicate 8 ⟨false, false, false, false⟩, wakeCause := none
      textOwed := Vector.replicate 8 none, resetPending := none } := by
  obtain ⟨o, h⟩ := s.toStartingCounter_spec before reason
  have e := (starts_startSupplies (s.toStartingCounter before reason) .started).same
  obtain ⟨l, w, g⟩ := ((s.toStartingCounter before reason).startSupplies .started).placeStart_spec
  rw [State.inStarting, g, e, h]
  exact ⟨_, _, _, _, rfl⟩

theorem State.inStarting_supply (s : State) (before : CounterState) (reason : CounterReason) (st : Station) :
    (s.inStarting before reason).supply st = if (s.supply st).state = .off ∧ (s.supply st).heldOff = false then
      { s.supply st with state := .trial, overRun := 0, draw := false } else s.supply st := by
  obtain ⟨o, h⟩ := s.toStartingCounter_spec before reason
  have e : (s.toStartingCounter before reason).supply st = s.supply st := by rw [h]; rfl
  rw [State.inStarting, State.placeStart_supply, State.startSupplies_supply, e]

theorem State.inStarting_noneAwaited (s : State) (before : CounterState) (reason : CounterReason) :
    (s.inStarting before reason).noneAwaited = true ↔ ∀ st, ((s.inStarting before reason).supply st).state = .off
      ∨ ((s.inStarting before reason).supply st).state = .locked := by
  rw [State.inStarting, State.placeStart_noneAwaited]
  simp only [State.placeStart_supply]

theorem State.inStarting_deadlineOf (s : State) (before : CounterState) (reason : CounterReason) {o : Owner}
    (h : ∀ x, o ≠ .supply x) (hc : o ≠ .counter) (k : DeadlineKind) :
    (s.inStarting before reason).deadlineOf o k = s.deadlineOf o k := by
  obtain ⟨_, e⟩ := s.toStartingCounter_spec before reason
  rw [State.inStarting, State.placeStart_deadlineOf _ hc,
    (starts_startSupplies (s.toStartingCounter before reason) .started).deadlineOf o k h, e]
  rfl

theorem State.inStarting_supervision (s : State) (before : CounterState) (reason : CounterReason) :
    (s.inStarting before reason).deadlineOf .counter .supervision = some (ahead s.tick 30000) := by
  obtain ⟨o, h⟩ := s.toStartingCounter_spec before reason
  rw [State.inStarting, State.placeStart_supervision,
    (starts_startSupplies (s.toStartingCounter before reason) .started).same, h]

theorem State.enterStartingCounter_same (s : State) (before : CounterState) (reason : CounterReason) : ∃ o l r w c,
    s.enterStartingCounter before reason = { s with
      outbound := o, deadlines := l, supplies := r, awaiting := w, counter := c
      wakeMask := Vector.replicate 8 ⟨false, false, false, false⟩, wakeCause := none
      textOwed := Vector.replicate 8 none, resetPending := none } := by
  obtain ⟨o, l, r, w, same⟩ := s.inStarting_same before reason
  obtain ⟨c, o', l', a', same'⟩ := (s.inStarting before reason).openIfProbed_spec
  exact ⟨o', l', r, a', c, by rw [State.enterStartingCounter_eq, same', same]⟩

theorem State.enterStartingCounter_supply (s : State) (before : CounterState) (reason : CounterReason) (st : Station) :
    (s.enterStartingCounter before reason).supply st = if (s.supply st).state = .off ∧ (s.supply st).heldOff = false then
      { s.supply st with state := .trial, overRun := 0, draw := false } else s.supply st := by
  rw [State.enterStartingCounter_eq, State.openIfProbed_supply, State.inStarting_supply]

/-- The counter stays in STARTING while a supply is neither OFF nor LOCKED. -/
theorem State.enterStartingCounter_counter (s : State) (before : CounterState) (reason : CounterReason) :
    (s.enterStartingCounter before reason).counter = if (s.inStarting before reason).noneAwaited then .opened
      else .starting := by
  obtain ⟨o, l, r, w, same⟩ := s.inStarting_same before reason
  rw [State.enterStartingCounter_eq, State.openIfProbed_counter _ (by rw [same])]

theorem State.enterStartingCounter_noneAwaited (s : State) (before : CounterState) (reason : CounterReason) :
    (s.inStarting before reason).noneAwaited = true ↔
      ∀ st, ((s.enterStartingCounter before reason).supply st).state = .off
        ∨ ((s.enterStartingCounter before reason).supply st).state = .locked := by
  simp only [State.enterStartingCounter_eq, State.openIfProbed_supply]
  exact s.inStarting_noneAwaited before reason

theorem State.enterStartingCounter_supervision (s : State) (before : CounterState) (reason : CounterReason) :
    (s.enterStartingCounter before reason).deadlineOf .counter .supervision = some (ahead s.tick 30000) := by
  rw [State.enterStartingCounter_eq, State.openIfProbed_deadlineOf _ _ _ (by simp), State.inStarting_supervision]

theorem State.enterStartingCounter_deadlineOf (s : State) (before : CounterState) (reason : CounterReason) {o : Owner}
    (h : ∀ x, o ≠ .supply x) (hc : o ≠ .counter) (k : DeadlineKind) :
    (s.enterStartingCounter before reason).deadlineOf o k = s.deadlineOf o k := by
  rw [State.enterStartingCounter_eq, State.openIfProbed_deadlineOf _ _ _ fun e => hc e.1,
    State.inStarting_deadlineOf _ _ _ h hc]

/-! ### What a reset makes of the devices and the deadlines (R98, R130, R147) -/

/-- A reset of the devices, before those in ABSENT are made due. -/
def State.blankDevices (s : State) : State :=
  { s with devices := s.devices.map Device.reset, owed := Vector.replicate 16 none }

/-- The due tick of a device at a reset. -/
def State.dueAtReset (p : Port) (s : State) : State :=
  if (s.device p).state = .absent then s.dueNow p else s.setDue p none

theorem State.resetDevices_eq (s : State) : s.resetDevices = s.blankDevices.forPorts State.dueAtReset := rfl

theorem State.dueAtReset_spec (s : State) (p : Port) : ∃ n, State.dueAtReset p s = { s with nextDue := n } := by
  unfold State.dueAtReset
  split
  · exact ⟨_, State.dueNow_eq _ p⟩
  · exact ⟨_, rfl⟩

theorem State.resetDevices_spec (s : State) : ∃ n, s.resetDevices = { s.blankDevices with nextDue := n } := by
  rw [State.resetDevices_eq, State.forPorts]
  refine List.foldlRecOn (motive := fun t : State => ∃ n, t = { s.blankDevices with nextDue := n }) _ _ ⟨_, rfl⟩ ?_
  rintro t ⟨n, rfl⟩ p -
  obtain ⟨n', h⟩ := State.dueAtReset_spec { s.blankDevices with nextDue := n } p
  exact ⟨n', h⟩

/-- The state as a reset leaves it, before the store and before STARTING is entered. -/
def State.resetBlocks (s : State) : State :=
  { s with
    sessions := Vector.replicate 8 Session.blank, intake := [], outbound := [], pendingFlow := none, holding := false
    deadlines := s.deadlines.filter Entry.survivesReset }.resetDevices

/-- The state as a reset of a kind leaves it, before STARTING is entered. -/
def State.resetTo (s : State) : ResetKind → State
  | .soft => s.resetBlocks
  | .full => s.resetBlocks.resetStore.capRestarts Settings.powerOn.restartLimit

theorem State.resetEffect_eq (s : State) (k : ResetKind) : ∃ reason, s.resetEffect k =
    (s.resetTo k).enterStartingCounter s.counter reason := by
  cases k with
  | soft => exact ⟨_, rfl⟩
  | full => exact ⟨_, rfl⟩

theorem State.resetBlocks_spec (s : State) : ∃ n, s.resetBlocks =
    { s with
      sessions := Vector.replicate 8 Session.blank, intake := [], outbound := [], pendingFlow := none, holding := false
      deadlines := s.deadlines.filter Entry.survivesReset, devices := s.devices.map Device.reset
      owed := Vector.replicate 16 none, nextDue := n } := State.resetDevices_spec _

theorem State.resetBlocks_device (s : State) (p : Port) : s.resetBlocks.device p = (s.device p).reset := by
  obtain ⟨n, e⟩ := s.resetBlocks_spec
  rw [e]
  simp [State.device]

theorem State.resetTo_device (s : State) (k : ResetKind) (p : Port) :
    ((s.resetTo k).device p).state = (s.device p).reset.state
      ∧ ((s.resetTo k).device p).restartCount ≤ (s.device p).reset.restartCount := by
  cases k with
  | soft => rw [State.resetTo, State.resetBlocks_device]; exact ⟨rfl, le_rfl⟩
  | full =>
    have e : (s.resetTo .full).device p =
        { s.resetBlocks.device p with
          restartCount := min (s.resetBlocks.device p).restartCount Settings.powerOn.restartLimit } := by
      simp [State.resetTo, State.capRestarts, State.resetStore, State.device]
    rw [e, State.resetBlocks_device]
    exact ⟨rfl, min_le_left _ _⟩

/-- What a reset leaves of the rest, whatever its kind. -/
theorem State.resetTo_same (s : State) (k : ResetKind) :
    (s.resetTo k).sessions = Vector.replicate 8 Session.blank ∧ (s.resetTo k).intake = []
      ∧ (s.resetTo k).holding = false ∧ (s.resetTo k).deadlines = s.deadlines.filter Entry.survivesReset
      ∧ (s.resetTo k).supplies = s.supplies ∧ (s.resetTo k).flight = s.flight
      ∧ (s.resetTo k).receiver = s.receiver ∧ (s.resetTo k).rate = s.rate ∧ (s.resetTo k).tick = s.tick := by
  obtain ⟨n, e⟩ := s.resetBlocks_spec
  cases k with
  | soft => rw [State.resetTo, e]; exact ⟨rfl, rfl, rfl, rfl, rfl, rfl, rfl, rfl, rfl⟩
  | full =>
    unfold State.resetTo
    rw [e]
    exact ⟨rfl, rfl, rfl, rfl, rfl, rfl, rfl, rfl, rfl⟩

theorem State.resetTo_soft_store (s : State) : SameStore s (s.resetTo .soft) := by
  obtain ⟨n, e⟩ := s.resetBlocks_spec
  rw [State.resetTo, e]
  exact ⟨rfl, rfl, rfl, rfl, rfl, rfl⟩

theorem State.resetTo_full_store (s : State) : (s.resetTo .full).settings = Settings.powerOn
    ∧ (s.resetTo .full).policy = [] ∧ (s.resetTo .full).defaultPolicy = Policy.powerOn
    ∧ (s.resetTo .full).businessMonth = none ∧ (s.resetTo .full).closedText = powerOnClosedText
    ∧ (s.resetTo .full).idleTexts = Vector.replicate 8 [] := ⟨rfl, rfl, rfl, rfl, rfl, rfl⟩

theorem deadlineOf_survivesReset {s t : State} (h : t.deadlines = s.deadlines.filter Entry.survivesReset) (o : Owner)
    {k : DeadlineKind} (hk : k ≠ .supply) : t.deadlineOf o k = none := by
  have none_ : t.deadlines.find? (fun e => e.isFor o k) = none := by
    rw [h, List.find?_eq_none]
    intro e he c
    have survives : e.kind = .supply := by simpa [Entry.survivesReset] using (List.mem_filter.1 he).2
    exact hk ((((Entry.isFor_iff o k e).1 c).2).symm.trans survives)
  simp [State.deadlineOf, none_]

theorem Device.reset_state (d : Device) : d.reset.state = if d.state = .unpowered then .unpowered else .absent := by
  unfold Device.reset
  split <;> rfl

theorem Device.reset_restartCount (d : Device) (h : d.state ≠ .unpowered) : d.reset.restartCount = 0 := by
  rw [Device.reset, if_neg h]
  rfl

/-- Settles O29. -/
theorem resetTakesEffectWhenItsReplyHasLeft : Obligations.ResetTakesEffectWhenItsReplyHasLeft := by
  intro s k q a l b hs hp
  obtain ⟨reason, e⟩ := s.freed.resetEffect_eq k
  have run : exec .frameSent s = .next (((s.freed.resetTo k).enterStartingCounter s.counter reason).whole s) := by
    have g : s.frameLeft = s.freed.resetEffect k := by
      rw [State.frameLeft_of_sending hs]
      show (match s.resetPending with
        | some r => if (0x94 : Byte) = resetReplyKind then s.freed.resetEffect r else s.freed
        | none => s.freed) = _
      rw [hp]
      rfl
    rw [exec_frameSent, eventRow, g, e]
    rfl
  obtain ⟨sessions, intake, holding, deadlines, supplies, flight, receiver, rate, tick⟩ := s.freed.resetTo_same k
  have supply : ∀ st, (s.freed.resetTo k).supply st = s.supply st := fun st =>
    congrArg (fun v : Vector Supply 8 => v[st.val]) supplies
  obtain ⟨o, l', r, w, c, same⟩ := (s.freed.resetTo k).enterStartingCounter_same s.counter reason
  have counter := (s.freed.resetTo k).enterStartingCounter_counter s.counter reason
  have none_ := (s.freed.resetTo k).enterStartingCounter_noneAwaited s.counter reason
  have notWaking : ((s.freed.resetTo k).enterStartingCounter s.counter reason).counter ≠ .waking := by
    rw [counter]
    split <;> decide
  refine ⟨_, run.trans (congrArg _ (State.whole_of_ne (.inl notWaking))), fun st => ?_, ?_, ?_, ?_, fun st => ?_, fun h => ?_,
    fun h => ?_, ?_, ?_, ?_, fun st j hj => ?_, fun p j hj => ?_, fun p => ?_, fun soft => ?_, fun full => ?_, ?_, ?_, ?_, ?_⟩
  · rw [State.beginNext_session, same]
    show (s.freed.resetTo k).session st = _
    rw [State.session, sessions]
    exact Vector.getElem_replicate st.isLt
  · rw [State.beginNext_intake, same]
    exact intake
  · rw [State.beginNext_holding, same]
    exact holding
  · rw [State.beginNext_resetPending, same]
  · rw [State.beginNext_supply, State.enterStartingCounter_supply, supply]
    split <;> rfl
  · rw [State.beginNext_counter, counter, if_neg]
    rw [none_]
    obtain ⟨st, off, locked⟩ := h
    simp only [State.beginNext_supply] at off locked
    exact fun all => (all st).elim off locked
  · rw [State.beginNext_counter, counter, if_pos]
    simp only [State.beginNext_supply] at h
    exact none_.2 h
  · rw [State.beginNext_wakeCause, same]
  · rw [State.beginNext_wakeMask, same]
  · rw [State.beginNext_deadlineOf, State.enterStartingCounter_supervision, tick]
    rfl
  · rw [State.beginNext_deadlineOf, State.enterStartingCounter_deadlineOf _ _ _ (by simp) (by simp),
      deadlineOf_survivesReset deadlines _ hj]
  · rw [State.beginNext_deadlineOf, State.enterStartingCounter_deadlineOf _ _ _ (by simp) (by simp),
      deadlineOf_survivesReset deadlines _ hj]
  · obtain ⟨state, count⟩ := s.freed.resetTo_device k p
    have dev : ((s.freed.resetTo k).enterStartingCounter s.counter reason).device p = (s.freed.resetTo k).device p := by
      rw [same]
      rfl
    rw [Device.reset_state] at state
    rw [State.beginNext_device, dev]
    split
    · rename_i h
      exact state.trans (if_pos h)
    · rename_i h
      refine ⟨state.trans (if_neg h), Nat.le_zero.1 (count.trans (Device.reset_restartCount _ h).le)⟩
  · subst soft
    have kept := SameStore.trans (s := s) (t := s.freed) ⟨rfl, rfl, rfl, rfl, rfl, rfl⟩ s.freed.resetTo_soft_store
    simp only [SameStore, State.beginNext_settings, State.beginNext_policy, State.beginNext_defaultPolicy,
      State.beginNext_businessMonth, State.beginNext_closedText, State.beginNext_idleTexts, same]
    exact kept
  · subst full
    simp only [State.beginNext_settings, State.beginNext_policy, State.beginNext_defaultPolicy,
      State.beginNext_businessMonth, State.beginNext_closedText, State.beginNext_idleTexts, same]
    exact s.freed.resetTo_full_store
  · rw [State.beginNext_flight, same]
    exact flight
  · rw [State.beginNext_receiver, same]
    exact receiver
  · rw [State.beginNext_rate, same]
    exact rate
  · rw [State.beginNext_tick, same]
    exact tick

end Sys2Proof.Machine
end

section
/-! PROOFS. Texts for the keypads, and the counter by command (R166 to R175). -/

namespace Sys2Proof.Machine

variable (s : State) (st : Station) (p : Port)

/-! ### A text at a keypad (R122 to R124, R175) -/

theorem mem_meetInQueue_of_text (t : Text) (r : Requester) (l : List Queued)
    (h : (ofClass .text l).isSome = true) : (⟨.showText t, r⟩ : Queued) ∈ meetInQueue ⟨.showText t, r⟩ l := by
  induction l with
  | nil => cases h
  | cons x xs ih =>
    rw [meetInQueue]
    by_cases c : x.command.cls = .text
    · rw [if_pos (show x.command.cls = (DeviceCommand.showText t).cls from c)]
      exact List.mem_cons_self
    · rw [if_neg (show ¬x.command.cls = (DeviceCommand.showText t).cls from c)]
      refine List.mem_cons_of_mem x (ih ?_)
      simpa [ofClass, List.find?_cons, c] using h

/-- A text taken in a joined state stands in the queue, or as the follower. -/
theorem Device.accept_text (d : Device) (t : Text) (r : Requester) :
    (⟨.showText t, r⟩ : Queued) ∈ (d.accept ⟨.showText t, r⟩).1.queue
      ∨ (d.accept ⟨.showText t, r⟩).1.follower = some ⟨.showText t, r⟩ := by
  unfold Device.accept
  split
  · refine .inr ?_
    unfold Device.follow
    cases d.follower with
    | none => rfl
    | some f => rfl
  · refine .inl ?_
    split
    · rename_i x hx
      exact mem_meetInQueue_of_text t r _ (Option.isSome_iff_exists.2 ⟨x, hx⟩)
    · simp

/-- A keypad's record once a text of the counter controller was asked for: taken where it is READY or DOZING. -/
def Device.shown (d : Device) (t : Text) : Device :=
  if d.state = .ready ∨ d.state = .dozing then (d.accept ⟨.showText t, .counter⟩).1 else d

theorem Device.shown_state (d : Device) (t : Text) : (d.shown t).state = d.state := by
  unfold Device.shown
  split
  · exact Device.accept_state _ _
  · rfl

theorem Device.shown_awaits (d : Device) (t : Text) (h : d.state = .ready ∨ d.state = .dozing) :
    ⟨.showText t, .counter⟩ ∈ (d.shown t).queue ∨ (d.shown t).follower = some ⟨.showText t, .counter⟩ := by
  rw [Device.shown, if_pos h]
  exact Device.accept_text d t .counter

theorem State.textToFreeKeypad_spec (t : Text) : ∃ d n, s.textToFreeKeypad st t =
    { s with devices := d, nextDue := n } := by
  unfold State.textToFreeKeypad
  dsimp only
  split
  · exact ⟨_, _, State.queueCommand_eq _ _ _⟩
  · exact ⟨_, _, rfl⟩

theorem State.textToFreeKeypad_device (t : Text) :
    (s.textToFreeKeypad st t).device (keypadOf st) = (s.device (keypadOf st)).shown t := by
  unfold State.textToFreeKeypad Device.shown
  dsimp only
  split
  · rename_i h
    rw [State.queueCommand_device, if_pos]
    have joined : (s.device (keypadOf st)).state.joined = true := by rcases h with h | h <;> rw [h] <;> rfl
    rw [State.acceptsCommand, joined, kindOf_keypadOf]
    rfl
  · rfl

theorem edited_textToFreeKeypad_only (t : Text) : Edited (.device (keypadOf st)) s (s.textToFreeKeypad st t) :=
  edited_textToFreeKeypad s st t rfl

theorem keypadOf_inj {x y : Station} (h : keypadOf x = keypadOf y) : x = y := by
  have := congrArg stationOf h
  rwa [stationOf_keypadOf, stationOf_keypadOf] at this

theorem State.textToFreeKeypad_device_of_ne (t : Text) (h : p ≠ keypadOf st) :
    (s.textToFreeKeypad st t).device p = s.device p := (edited_textToFreeKeypad_only s st t).device_eq h

/-! ### IDLE-TEXT (R175) -/

/-- What storing an idle text for the stations of a list makes of the state. -/
structure TextStored (t : Text) (l : List Station) (s u : State) : Prop where
  same : ∃ d n v, u = { s with devices := d, nextDue := n, idleTexts := v }
  text : ∀ st, u.idleTexts[st.val] = if st ∈ l then t else s.idleTexts[st.val]
  keypad : ∀ st, u.device (keypadOf st) =
    if st ∈ l ∧ s.counter.showsIdle = true then (s.device (keypadOf st)).shown t else s.device (keypadOf st)
  reader : ∀ st, u.device (readerOf st) = s.device (readerOf st)

variable {s st p} {t : Text}

theorem textStored_putIdleText (s : State) (st : Station) (t : Text) : TextStored t [st] s (s.putIdleText st t) := by
  obtain ⟨d, n, e⟩ := State.textToFreeKeypad_spec { s with idleTexts := s.idleTexts.set st.val t } st t
  have text : ∀ x : Station, (s.idleTexts.set st.val t)[x.val] = if x ∈ [st] then t else s.idleTexts[x.val] := by
    intro x
    rw [Vector.getElem_set]
    simp [Fin.ext_iff, eq_comm]
  unfold State.putIdleText
  dsimp only
  split
  · rename_i shows
    refine ⟨⟨d, n, _, e⟩, fun x => ?_, fun x => ?_, fun x => ?_⟩
    · rw [e]
      exact text x
    · by_cases hx : x = st
      · rw [hx, State.textToFreeKeypad_device, if_pos ⟨List.mem_singleton_self st, shows⟩]
        rfl
      · rw [State.textToFreeKeypad_device_of_ne _ _ _ _ fun g => hx (keypadOf_inj g), if_neg (by simp [hx])]
        rfl
    · exact State.textToFreeKeypad_device_of_ne _ _ _ _ (readerOf_ne_keypadOf x st)
  · rename_i hides
    refine ⟨⟨_, _, _, rfl⟩, text, fun x => ?_, fun x => rfl⟩
    rw [if_neg fun h => hides h.2]
    rfl

theorem TextStored.trans {u v : State} {l m : List Station} (h : TextStored t l s u) (g : TextStored t m u v)
    (apart : ∀ x ∈ l, x ∉ m) : TextStored t (l ++ m) s v := by
  obtain ⟨d, n, x, e⟩ := h.same
  obtain ⟨d', n', x', e'⟩ := g.same
  have counter : u.counter = s.counter := by rw [e]
  refine ⟨⟨d', n', x', by rw [e', e]⟩, fun st => ?_, fun st => ?_, fun st => (g.reader st).trans (h.reader st)⟩
  · rw [g.text, h.text]
    by_cases hm : st ∈ m <;> simp [hm]
  · rw [g.keypad, h.keypad, counter]
    by_cases hl : st ∈ l
    · simp [hl, apart st hl]
    · simp [hl]

theorem TextStored.nil (s : State) (t : Text) : TextStored t [] s s :=
  ⟨⟨_, _, _, rfl⟩, fun _ => by simp, fun _ => by simp, fun _ => rfl⟩

theorem textStored_foldl (t : Text) (l : List Station) (distinct : l.Nodup) (s : State) :
    TextStored t l s (l.foldl (fun s st => s.putIdleText st t) s) := by
  induction l generalizing s with
  | nil => exact .nil s t
  | cons x xs ih =>
    obtain ⟨new, rest⟩ := List.nodup_cons.1 distinct
    exact (textStored_putIdleText s x t).trans (ih rest _) (by simpa using new)

theorem stations_nodup : stations.Nodup := by decide

theorem textStored_all (s : State) (t : Text) : TextStored t stations s (s.forStations fun st s => s.putIdleText st t) :=
  textStored_foldl t stations stations_nodup s

/-- What storing texts leaves, whatever their target. -/
structure TextsPut (s u : State) : Prop where
  same : ∃ d n v c, u = { s with devices := d, nextDue := n, idleTexts := v, closedText := c }
  reader : ∀ st, u.device (readerOf st) = s.device (readerOf st)
  state : ∀ st, (u.device (keypadOf st)).state = (s.device (keypadOf st)).state

theorem TextStored.put {u : State} {l : List Station} (h : TextStored t l s u) : TextsPut s u := by
  obtain ⟨d, n, v, e⟩ := h.same
  refine ⟨⟨d, n, v, s.closedText, e⟩, h.reader, fun st => ?_⟩
  rw [h.keypad]
  split
  · exact Device.shown_state _ t
  · rfl

/-- A text asked for at every keypad. -/
def State.textToAll (s : State) (t : Text) : State := s.forStations fun st s => s.textToFreeKeypad st t

theorem State.textToAll_keypad (s : State) (t : Text) (st : Station) :
    (s.textToAll t).device (keypadOf st) = (s.device (keypadOf st)).shown t := by
  have out : ∀ {x}, ¬(Scope.others x False).port (keypadOf x) := Scope.others_port (stationOf_keypadOf _)
  obtain ⟨u, before, after⟩ := edited_forStations_at (s := s) (f := fun st s => s.textToFreeKeypad st t) (c := False) st
    fun y s h => edited_textToFreeKeypad s y t (by simpa [Scope.others] using h)
  rw [State.textToAll, after.device_eq out, State.textToFreeKeypad_device, before.device_eq out]

theorem textsPut_textToAll (s : State) (t : Text) : TextsPut s (s.textToAll t) := by
  refine ⟨?_, fun x => ?_, fun x => by rw [State.textToAll_keypad, Device.shown_state]⟩
  · have g : ∃ d n, s.textToAll t = { s with devices := d, nextDue := n } := by
      refine State.forStations_induct (P := fun u => ∃ d n, u = { s with devices := d, nextDue := n }) s ⟨_, _, rfl⟩ ?_
      rintro st u ⟨d, n, rfl⟩
      obtain ⟨d', n', e⟩ := State.textToFreeKeypad_spec { s with devices := d, nextDue := n } st t
      exact ⟨d', n', e⟩
    obtain ⟨d, n, e⟩ := g
    exact ⟨d, n, s.idleTexts, s.closedText, e⟩
  · exact State.forStations_induct (P := fun u => u.device (readerOf x) = s.device (readerOf x)) s rfl fun st u h =>
      (State.textToFreeKeypad_device_of_ne _ _ _ _ (readerOf_ne_keypadOf x st)).trans h

/-- The closed text stored. -/
def State.withClosedText (s : State) (t : Text) : State := { s with closedText := t }

theorem State.putClosedText_eq (s : State) (t : Text) : s.putClosedText t =
    if s.counter = .orphaned then (s.withClosedText t).textToAll t else s.withClosedText t := rfl

theorem textsPut_withClosedText (s : State) (t : Text) : TextsPut s (s.withClosedText t) :=
  ⟨⟨_, _, _, t, rfl⟩, fun _ => rfl, fun _ => rfl⟩

theorem TextsPut.trans {u v : State} (h : TextsPut s u) (g : TextsPut u v) : TextsPut s v := by
  obtain ⟨d, n, x, c, e⟩ := h.same
  obtain ⟨d', n', x', c', e'⟩ := g.same
  exact ⟨⟨d', n', x', c', by rw [e', e]⟩, fun st => (g.reader st).trans (h.reader st),
    fun st => (g.state st).trans (h.state st)⟩

theorem textsPut_putText (s : State) (t : Text) (target : TextTarget) : TextsPut s (s.putText t target) := by
  cases target with
  | allStations => exact (textStored_all s t).put
  | station st => exact (textStored_putIdleText s st t).put
  | closed =>
    show TextsPut s (s.putClosedText t)
    rw [State.putClosedText_eq]
    split
    · exact (textsPut_withClosedText s t).trans (textsPut_textToAll _ t)
    · exact textsPut_withClosedText s t

theorem TextStored.awaits {u : State} {l : List Station} (h : TextStored t l s u) (hl : st ∈ l)
    (shows : s.counter.showsIdle = true)
    (free : (s.device (keypadOf st)).state = .ready ∨ (s.device (keypadOf st)).state = .dozing) :
    u.awaitsText (keypadOf st) t := by
  rw [State.awaitsText, h.keypad, if_pos ⟨hl, shows⟩]
  exact Device.shown_awaits _ t free

/-- While no idle text shows, storing one changes no device. -/
theorem TextStored.devices {u : State} {l : List Station} (h : TextStored t l s u) (hides : s.counter.showsIdle = false) :
    u.devices = s.devices := by
  refine devices_eq_of_device fun p => ?_
  rcases eq_readerOf_or_keypadOf p with e | e <;> rw [e]
  · exact h.reader _
  · rw [h.keypad, if_neg (by simp [hides])]

theorem TextStored.closedText {u : State} {l : List Station} (h : TextStored t l s u) : u.closedText = s.closedText :=
  by
  obtain ⟨d, n, v, e⟩ := h.same
  rw [e]

theorem State.awaitsText_beginNext {x : Text} (h : s.awaitsText p x) : s.beginNext.awaitsText p x := by
  rwa [State.awaitsText, State.beginNext_device]

theorem textStored_all_idleTexts (s : State) (t : Text) :
    (s.forStations fun st s => s.putIdleText st t).idleTexts = Vector.replicate 8 t := by
  refine Vector.ext fun i hi => ?_
  rw [(textStored_all s t).text ⟨i, hi⟩, if_pos (mem_stations _), Vector.getElem_replicate]

theorem textStored_one_idleTexts (s : State) (st : Station) (t : Text) :
    (s.putIdleText st t).idleTexts = s.idleTexts.set st.val t := by
  refine Vector.ext fun i hi => ?_
  rw [(textStored_putIdleText s st t).text ⟨i, hi⟩, Vector.getElem_set]
  simp [Fin.ext_iff, eq_comm]

/-- The closed text asked for in ORPHANED awaits at every keypad that is free. -/
theorem State.putClosedText_awaits (h : s.counter = .orphaned)
    (free : (s.device (keypadOf st)).state = .ready ∨ (s.device (keypadOf st)).state = .dozing) :
    (s.putClosedText t).awaitsText (keypadOf st) t := by
  rw [State.putClosedText_eq, if_pos h, State.awaitsText, State.textToAll_keypad]
  exact Device.shown_awaits _ t free

theorem State.putClosedText_texts (s : State) (t : Text) :
    (s.putClosedText t).idleTexts = s.idleTexts ∧ (s.putClosedText t).closedText = t := by
  rw [State.putClosedText_eq]
  split
  · refine State.forStations_induct (P := fun u => u.idleTexts = s.idleTexts ∧ u.closedText = t) _ ⟨rfl, rfl⟩ fun st u h => ?_
    obtain ⟨d, n, e⟩ := u.textToFreeKeypad_spec st t
    rw [e]
    exact h
  · exact ⟨rfl, rfl⟩

/-- Settles O21. -/
theorem idleTextIsStored : Obligations.IdleTextIsStored := by
  intro s q b payload x ht hx
  have row := exec_idleText s q payload hx
  refine ⟨fun none_ => ?_, fun target some_ => ?_⟩
  · refine exec_of_answer row ht ?_
    simp only [State.changeText, none_]
    rfl
  · have e : s.takeHead.changeText ⟨0x12, q, payload⟩ (b, x) =
        (s.takeHead.answer ⟨0x12, q, payload⟩ .done (normaliseText x).adjusted []).putText (normaliseText x).value target := by
      simp only [State.changeText, some_]
    generalize hv : s.takeHead.append (.reply q 0x92 .done (normaliseText x).adjusted []) = v
    have base : StationFrame 0 s v := hv ▸ stationFrame_taken (s := s) (st := 0) _
    have device : ∀ p, v.device p = s.device p := fun p => by rw [← hv]; simp
    have devices : v.devices = s.devices := devices_eq_of_device device
    have counter : v.counter = s.counter := base.counter
    obtain ⟨settings, idleTexts, closedText, policy, default, month⟩ := base.store
    have reply : .reply q 0x92 .done (normaliseText x).adjusted [] ∈ v.outbound := hv ▸ State.mem_append _ _
    obtain ⟨d, n, w, c, same⟩ := (textsPut_putText v (normaliseText x).value target).same
    have run := exec_of_reply_same row ht (fun u => u.putText (normaliseText x).value target) e (k := 0x92)
      (by rw [hv, same]; exact counter)
    rw [hv] at run
    have put := textsPut_putText v (normaliseText x).value target
    refine ⟨_, run, ?_, ?_, fun st => ?_, fun p => ?_, ?_, ?_, ?_, ?_, ?_, ?_, ?_, ?_⟩
    · exact State.shows_beginNext _ _ (.inl (by rw [same]; exact reply))
    · cases target with
      | allStations =>
        have g := textStored_all v (normaliseText x).value
        refine ⟨?_, ?_, fun shows st free => ?_, fun hides => ?_⟩
        · exact (State.beginNext_idleTexts _).trans (textStored_all_idleTexts v _)
        · exact (State.beginNext_closedText _).trans (g.closedText.trans closedText)
        · exact State.awaitsText_beginNext (g.awaits (mem_stations st) (by rwa [counter]) (by rwa [device]))
        · exact (State.beginNext_devices _).trans ((g.devices (by rwa [counter])).trans devices)
      | station st =>
        have g := textStored_putIdleText v st (normaliseText x).value
        refine ⟨?_, ?_, fun shows free => ?_, fun hides => ?_, fun y hy => ?_⟩
        · exact (State.beginNext_idleTexts _).trans ((textStored_one_idleTexts v st _).trans (by rw [idleTexts]))
        · exact (State.beginNext_closedText _).trans (g.closedText.trans closedText)
        · exact State.awaitsText_beginNext (g.awaits (List.mem_singleton_self st) (by rwa [counter]) (by rwa [device]))
        · exact (State.beginNext_devices _).trans ((g.devices (by rwa [counter])).trans devices)
        · exact (State.beginNext_device _ _).trans ((g.keypad y).trans ((if_neg (by simp [hy])).trans (device _)))
      | closed =>
        obtain ⟨idle, closed⟩ := v.putClosedText_texts (normaliseText x).value
        refine ⟨?_, ?_, fun orphaned st free => ?_, fun other => ?_⟩
        · exact (State.beginNext_idleTexts _).trans (idle.trans idleTexts)
        · exact (State.beginNext_closedText _).trans closed
        · exact State.awaitsText_beginNext (State.putClosedText_awaits (by rwa [counter]) (by rwa [device]))
        · have quiet : v.putClosedText (normaliseText x).value = v.withClosedText (normaliseText x).value :=
            if_neg (by rwa [counter])
          exact (State.beginNext_devices _).trans ((congrArg State.devices quiet).trans devices)
    · rw [State.beginNext_device, put.reader, device]
    · rw [State.beginNext_device]
      rcases eq_readerOf_or_keypadOf p with e | e <;> rw [e]
      · rw [put.reader, device]
      · rw [put.state, device]
    · rw [State.beginNext_sessions, same, ← hv]
      simp
    · rw [State.beginNext_supplies, same, ← hv]
      simp
    · rw [State.beginNext_counter, same]
      exact counter
    · rw [State.beginNext_settings, same]
      exact settings
    · rw [State.beginNext_policy, same]
      exact policy
    · rw [State.beginNext_defaultPolicy, same]
      exact default
    · rw [State.beginNext_businessMonth, same]
      exact month
    · rw [State.beginNext_tick, same]
      exact base.tick

end Sys2Proof.Machine
end

section
/-! PROOFS. The counter by command, and what a good frame does to it (R166 to R172, R184). -/

namespace Sys2Proof.Machine

variable {s : State} {st : Station} {p : Port}

/-! ### The counter reopened (R168) -/

/-- The counter reopened, before the texts. -/
def State.toReopened (s : State) : State := (s.changeCounter .opened .reopened).placeSupervision

/-- The idle texts asked for at every keypad. -/
def State.showIdleTexts (s : State) : State := s.forStations fun st s => s.textToFreeKeypad st (s.idleText st)

/-- The idle text owed to a station still ENDING. -/
def State.oweIdle (st : Station) (s : State) : State :=
  if (s.session st).state = .ending then { s with textOwed := s.textOwed.set st.val (some .idle) } else s

theorem State.reopen_eq (s : State) : s.reopen = s.toReopened.showIdleTexts.forStations State.oweIdle := rfl

theorem edited_showIdleTexts (s : State) : Edited .ports s s.showIdleTexts :=
  edited_forStations fun st s => edited_textToFreeKeypad s st _ trivial

theorem State.oweIdle_spec (st : Station) (s : State) : ∃ x, State.oweIdle st s = { s with textOwed := x } := by
  unfold State.oweIdle
  split
  · exact ⟨_, rfl⟩
  · exact ⟨_, rfl⟩

theorem edited_oweIdle {A : Scope} (s : State) (st : Station) (h : A.station st) : Edited A s (State.oweIdle st s) := by
  unfold State.oweIdle
  split
  · exact .owedText st _ .refl h
  · exact .refl

/-- The texts owed as the counter reopens change nothing else. -/
theorem State.oweIdleTexts_spec (s : State) : ∃ x, s.forStations State.oweIdle = { s with textOwed := x } := by
  refine State.forStations_induct (P := fun u => ∃ x, u = { s with textOwed := x }) s ⟨_, rfl⟩ ?_
  rintro st u ⟨x, rfl⟩
  obtain ⟨x', e⟩ := State.oweIdle_spec st { s with textOwed := x }
  exact ⟨x', e⟩

theorem State.oweIdleTexts_same (s : State) : (s.forStations State.oweIdle).counter = s.counter
    ∧ (s.forStations State.oweIdle).sessions = s.sessions ∧ (s.forStations State.oweIdle).supplies = s.supplies
    ∧ (s.forStations State.oweIdle).intake = s.intake
    ∧ ((s.forStations State.oweIdle).pendingFlow = s.pendingFlow ∧ (s.forStations State.oweIdle).holding = s.holding)
    ∧ (s.forStations State.oweIdle).tick = s.tick ∧ SameStore s (s.forStations State.oweIdle) := by
  obtain ⟨x, e⟩ := s.oweIdleTexts_spec
  rw [e]
  exact ⟨rfl, rfl, rfl, rfl, ⟨rfl, rfl⟩, rfl, rfl, rfl, rfl, rfl, rfl, rfl⟩

theorem State.oweIdleTexts_deadlineOf (s : State) (o : Owner) (k : DeadlineKind) :
    (s.forStations State.oweIdle).deadlineOf o k = s.deadlineOf o k := by
  obtain ⟨x, e⟩ := s.oweIdleTexts_spec
  rw [e]
  rfl

theorem State.oweIdleTexts_textOwed (s : State) (st : Station) : (s.forStations State.oweIdle).textOwed[st.val] =
    if (s.session st).state = .ending then some .idle else s.textOwed[st.val] := by
  obtain ⟨u, before, after⟩ := edited_forStations_at (s := s) (f := State.oweIdle) (c := False) st fun y s h =>
    edited_oweIdle s y h
  rw [after.textOwed_eq Scope.others_station not_false, State.oweIdle, before.session_eq Scope.others_station]
  split
  · exact Vector.getElem_set_self st.isLt
  · exact before.textOwed_eq Scope.others_station not_false

theorem State.toReopened_spec (s : State) : ∃ o l, s.toReopened = { s with
    counter := .opened, outbound := o, deadlines := l } := ⟨_, _, rfl⟩

theorem State.toReopened_supervision (s : State) : s.toReopened.deadlineOf .counter .supervision =
    some (ahead s.tick (s.settings.supervision * 1000)) := State.deadlineOf_placeDeadline _ _ _ _

/-- What the reopening leaves, and what it makes of the counter. -/
structure Reopens (s t : State) : Prop where
  counter : t.counter = .opened
  supervision : t.deadlineOf .counter .supervision = some (ahead s.tick (s.settings.supervision * 1000))
  textOwed : ∀ st : Station,
    t.textOwed[st.val] = if (s.session st).state = .ending then some .idle else s.textOwed[st.val]
  sessions : t.sessions = s.sessions
  supplies : t.supplies = s.supplies
  intake : t.intake = s.intake
  flow : t.pendingFlow = s.pendingFlow ∧ t.holding = s.holding
  tick : t.tick = s.tick
  store : SameStore s t

theorem State.toReopened_same (s : State) : s.toReopened.counter = .opened ∧ s.toReopened.sessions = s.sessions
    ∧ s.toReopened.supplies = s.supplies ∧ s.toReopened.textOwed = s.textOwed ∧ s.toReopened.intake = s.intake
    ∧ (s.toReopened.pendingFlow = s.pendingFlow ∧ s.toReopened.holding = s.holding) ∧ s.toReopened.tick = s.tick
    ∧ SameStore s s.toReopened := by
  obtain ⟨o, l, e⟩ := s.toReopened_spec
  rw [e]
  exact ⟨rfl, rfl, rfl, rfl, rfl, ⟨rfl, rfl⟩, rfl, rfl, rfl, rfl, rfl, rfl, rfl⟩

theorem State.reopens (s : State) : Reopens s s.reopen := by
  obtain ⟨counter, sessions, supplies, textOwed, intake, flow, tick, store⟩ := s.toReopened_same
  obtain ⟨counter', sessions', supplies', intake', flow', tick', store'⟩ :=
    s.toReopened.showIdleTexts.oweIdleTexts_same
  have edit := edited_showIdleTexts s.toReopened
  have kept := edit.untouched
  have session : ∀ st : Station, s.toReopened.session st = s.session st := fun st =>
    congrArg (fun v : Vector Session 8 => v[st.val]) sessions
  rw [← State.reopen_eq] at *
  constructor
  case counter => rw [counter', (edit.counter_eq not_false).1, counter]
  case supervision =>
    rw [State.reopen_eq, State.oweIdleTexts_deadlineOf, edit.deadlineOf_eq (o := .counter) not_false,
      State.toReopened_supervision]
  case textOwed =>
    intro st
    rw [State.reopen_eq, State.oweIdleTexts_textOwed, edit.session_eq not_false, session,
      edit.textOwed_eq not_false not_false, textOwed]
  case sessions => rw [sessions', sessions_eq_of_session fun y => edit.session_eq not_false, sessions]
  case supplies => rw [supplies', supplies_eq_of_supply fun y => edit.supply_eq not_false, supplies]
  case intake => rw [intake', kept.intake, intake]
  case flow => exact ⟨flow'.1.trans (kept.pendingFlow.trans flow.1), flow'.2.trans (kept.holding.trans flow.2)⟩
  case tick => rw [tick', kept.tick, tick]
  case store => exact store.trans (kept.sameStore.trans store')

/-! ### A good frame (R184) -/

/-- What a good frame does to the counter before it is appended. -/
structure FrameSeen (s t : State) : Prop where
  supervision : s.counter = .starting ∨ s.counter = .opened ∨ s.counter = .waking ∨ s.counter = .orphaned →
    t.deadlineOf .counter .supervision = some (ahead s.tick (s.settings.supervision * 1000))
  deadlines : s.counter = .lull ∨ s.counter = .closed → t.deadlines = s.deadlines
  counter : t.counter = if s.counter = .orphaned then .opened else s.counter
  sessions : t.sessions = s.sessions
  supplies : t.supplies = s.supplies
  intake : t.intake = s.intake
  flow : t.pendingFlow = s.pendingFlow ∧ t.holding = s.holding
  tick : t.tick = s.tick
  store : SameStore s t

theorem State.frameSeen_of_reopen (h : s.counter = .orphaned) : FrameSeen s s.reopen := by
  have r := s.reopens
  exact ⟨fun _ => r.supervision, fun g => by rw [h] at g; simp at g, by rw [r.counter, h]; rfl, r.sessions, r.supplies,
    r.intake, r.flow, r.tick, r.store⟩

theorem State.frameSeen_of_supervised (h : s.counter = .starting ∨ s.counter = .opened ∨ s.counter = .waking) :
    FrameSeen s s.placeSupervision := by
  have ne : s.counter ≠ .orphaned := by rcases h with h | h | h <;> rw [h] <;> decide
  have ne' : ¬(s.counter = .lull ∨ s.counter = .closed) := by rcases h with h | h | h <;> rw [h] <;> decide
  exact ⟨fun _ => State.deadlineOf_placeDeadline _ _ _ _, fun g => absurd g ne', (if_neg ne).symm, rfl, rfl, rfl,
    ⟨rfl, rfl⟩, rfl, ⟨rfl, rfl, rfl, rfl, rfl, rfl⟩⟩

theorem State.frameSeen_of_unsupervised (h : s.counter = .lull ∨ s.counter = .closed) : FrameSeen s s := by
  have ne : s.counter ≠ .orphaned := by rcases h with h | h <;> rw [h] <;> decide
  refine ⟨fun g => ?_, fun _ => rfl, (if_neg ne).symm, rfl, rfl, rfl, ⟨rfl, rfl⟩, rfl, ⟨rfl, rfl, rfl, rfl, rfl, rfl⟩⟩
  rcases h with h | h <;> rw [h] at g <;> simp at g

theorem State.frameSeen (s : State) : FrameSeen s s.goodFrameToCounter := by
  unfold State.goodFrameToCounter
  cases h : s.counter with
  | starting => exact State.frameSeen_of_supervised (.inl h)
  | opened => exact State.frameSeen_of_supervised (.inr (.inl h))
  | waking => exact State.frameSeen_of_supervised (.inr (.inr h))
  | orphaned => exact State.frameSeen_of_reopen h
  | lull => exact State.frameSeen_of_unsupervised (.inl h)
  | closed => exact State.frameSeen_of_unsupervised (.inr h)

/-- The flow rule at an append: HOLD pending where the count becomes 6, and otherwise nothing (R185). -/
theorem State.appendFrame_flow (s : State) (f : Frame) : (s.intake.length = 5 →
      (s.appendFrame f).pendingFlow = some .hold ∧ (s.appendFrame f).holding = true)
    ∧ (s.intake.length ≠ 5 → (s.appendFrame f).pendingFlow = s.pendingFlow ∧ (s.appendFrame f).holding = s.holding) := by
  have count : ∀ n, n + 1 = Config.holdCount ↔ n = 5 := fun n => Nat.succ_inj
  unfold State.appendFrame State.flowOnAppend
  simp only [List.length_append, List.length_singleton, count]
  refine ⟨fun h => ?_, fun h => ?_⟩
  · rw [if_pos (by rw [h]; decide), if_pos h]
    exact ⟨rfl, rfl⟩
  · rw [if_neg h]
    split
    · exact ⟨rfl, rfl⟩
    · exact ⟨rfl, rfl⟩

/-- Settles O24. -/
theorem goodFrameIsCountedAndAppended : Obligations.GoodFrameIsCountedAndAppended := by
  intro s f
  have seen := s.frameSeen
  have flow := s.goodFrameToCounter.appendFrame_flow f
  have intake := s.goodFrameToCounter.appendFrame_intake f
  rw [seen.intake] at intake flow
  rw [seen.flow.1, seen.flow.2] at flow
  have kept := s.goodFrameToCounter.appendFrame_eq f
  refine ⟨fun h => intake.trans (if_pos h), fun h => intake.trans (if_neg (Nat.not_lt.2 h)), flow.1, flow.2, fun h => ?_,
    fun h => ?_, ?_, ?_, ?_, ?_, ?_⟩
  · rw [State.goodFrame, kept]
    exact seen.supervision h
  · rw [State.goodFrame, kept]
    exact seen.deadlines h
  · rw [State.goodFrame, kept]
    exact seen.counter
  · rw [State.goodFrame, kept]
    exact seen.sessions
  · rw [State.goodFrame, kept]
    exact seen.supplies
  · rw [State.goodFrame, kept]
    exact seen.tick
  · rw [State.goodFrame, kept]
    exact seen.store

end Sys2Proof.Machine
end

section
/-! PROOFS. DOZE-COUNTER and OPEN-COUNTER (R169 to R172). -/

namespace Sys2Proof.Machine

variable {s : State} {st : Station} {p : Port} {f : Frame}

/-! ### DOZE-COUNTER (R169) -/

theorem State.forPorts_induct {P : State → Prop} {g : Port → State → State} (s : State) (h : P s)
    (keep : ∀ p s, P s → P (g p s)) : P (s.forPorts g) :=
  List.foldlRecOn _ _ h fun s hs p _ => keep p s hs

theorem edited_dozeDevices_only (s : State) : Edited .ports s s.dozeDevices :=
  edited_forPorts fun p s => edited_ite (edited_queueCommand s p _ trivial) .refl

/-- DOZE is queued, and no port state changes until it is taken (R121). -/
theorem State.dozeDevices_state (s : State) (p : Port) : (s.dozeDevices.device p).state = (s.device p).state := by
  refine State.forPorts_induct (P := fun u : State => (u.device p).state = (s.device p).state) s rfl fun x u h => ?_
  split
  · rw [State.queueCommand_state, h]
  · exact h

/-- The counter in LULL with its wake mask, before the devices are told. -/
def State.toLull (s : State) (mask : Vector WakeFlags 8) : State :=
  { s with wakeMask := mask }.removeSupervision.clearTextOwed.changeCounter .lull .dozed

/-- The wake mask stored. -/
def State.withWakeMask (s : State) (mask : Vector WakeFlags 8) : State := { s with wakeMask := mask }

theorem State.enterLull_withWakeMask (s : State) (mask : Vector WakeFlags 8) :
    (s.withWakeMask mask).enterLull = (s.toLull mask).dozeDevices := rfl

theorem State.dozeCounter_of_idle (mask : Vector WakeFlags 8) (h : s.counter = .opened) (idle : s.allIdle = true) :
    s.dozeCounter f mask = ((s.answer f .done false []).toLull mask).dozeDevices := by
  have e : { s with wakeMask := mask }.answer f .done false [] = (s.answer f .done false []).withWakeMask mask := rfl
  unfold State.dozeCounter
  split
  case h_2 => rw [if_pos idle, e, State.enterLull_withWakeMask]
  all_goals simp_all

theorem State.dozeCounter_of_busy (mask : Vector WakeFlags 8) (h : s.counter = .opened) (busy : s.allIdle = false) :
    s.dozeCounter f mask = s.answer f .busy false [] := by
  unfold State.dozeCounter
  simp only [h, busy]
  rfl

theorem State.dozeCounter_refused (mask : Vector WakeFlags 8) (h : s.counter ≠ .opened) (h' : s.counter ≠ .lull) :
    s.dozeCounter f mask = s.answer f .wrongState false [] := by
  unfold State.dozeCounter
  cases e : s.counter with
  | opened => exact absurd e h
  | lull => exact absurd e h'
  | _ => rfl

theorem State.dozeCounter_of_lull (mask : Vector WakeFlags 8) (h : s.counter = .lull) :
    s.dozeCounter f mask = { s with wakeMask := mask }.answer f .done false [] := by
  unfold State.dozeCounter
  simp only [h]

theorem State.toLull_same (s : State) (mask : Vector WakeFlags 8) : (s.toLull mask).counter = .lull
    ∧ (s.toLull mask).wakeMask = mask ∧ (s.toLull mask).textOwed = Vector.replicate 8 none
    ∧ (s.toLull mask).devices = s.devices ∧ (s.toLull mask).sessions = s.sessions
    ∧ (s.toLull mask).supplies = s.supplies ∧ (s.toLull mask).wakeCause = s.wakeCause ∧ (s.toLull mask).tick = s.tick
    ∧ SameStore s (s.toLull mask) := ⟨rfl, rfl, rfl, rfl, rfl, rfl, rfl, rfl, rfl, rfl, rfl, rfl, rfl, rfl⟩

theorem State.toLull_supervision (s : State) (mask : Vector WakeFlags 8) :
    (s.toLull mask).deadlineOf .counter .supervision = none :=
  State.deadlineOf_removeDeadline { s with wakeMask := mask } .counter .supervision

theorem State.mem_toLull (mask : Vector WakeFlags 8) {i : Item} (hi : i.key = none) (h : i ∈ s.outbound) :
    i ∈ (s.toLull mask).outbound := mem_coalesce_of_mem _ _ _ i _ h (by rw [hi]; simp)

/-- Settles O17. -/
theorem dozeCounterEntersLull : Obligations.DozeCounterEntersLull := by
  intro s q payload mask ht hm
  have row := exec_dozeCounter s q payload hm
  refine ⟨fun h h' => ?_, fun h ⟨st, busy⟩ => ?_, fun h => ?_, fun h idle => ?_⟩
  · exact exec_of_answer row ht (State.dozeCounter_refused mask (by simpa using h) (by simpa using h'))
  · refine exec_of_answer row ht (State.dozeCounter_of_busy mask (by simpa using h) ?_)
    rw [← Bool.not_eq_true, State.allIdle_iff]
    exact fun idle => busy (by simpa using idle st)
  · refine exec_of_counter row ht ((State.dozeCounter_of_lull mask (by simpa using h)).trans
      (State.answer_eq _ _ _ _ _ (k := 0x8E))) ?_
    exact s.takeHead_counter
  · generalize hv : s.takeHead.append (.reply q 0x8E .done false []) = v
    have base : StationFrame 0 s v := hv ▸ stationFrame_taken (s := s) (st := 0) _
    have same : v.sessions = s.sessions ∧ v.supplies = s.supplies ∧ v.devices = s.devices ∧ v.wakeCause = s.wakeCause := by
      rw [← hv]
      simp
    obtain ⟨counter, wakeMask, textOwed, devices, sessions, supplies, wakeCause, tick, store⟩ := v.toLull_same mask
    have edit := edited_dozeDevices_only (v.toLull mask)
    have run := exec_of_reply row ht (fun u => (u.toLull mask).dozeDevices)
      (State.dozeCounter_of_idle mask (by simpa using h) (by rw [State.allIdle_iff]; simpa using idle)) (k := 0x8E)
    rw [hv, State.whole_of_ne (.inl (by rw [(edit.counter_eq not_false).1, counter]; decide))] at run
    refine ⟨_, run, ?_, ?_, ?_, ?_, ?_, fun p => ?_, ?_, ?_, ?_, ?_, ?_⟩
    · rw [State.beginNext_counter, (edit.counter_eq not_false).1, counter]
    · rw [State.beginNext_wakeMask, edit.untouched.wakeMask, wakeMask]
    · rw [State.beginNext_deadlineOf, edit.deadlineOf_eq (o := .counter) not_false, State.toLull_supervision]
    · rw [State.beginNext_textOwed, ← textOwed]
      exact Vector.ext fun i hi => edit.textOwed_eq (st := ⟨i, hi⟩) not_false not_false
    · refine edit.shows_beginNext rfl (State.mem_toLull mask rfl ?_)
      rw [← hv]
      exact State.mem_append _ _
    · rw [State.beginNext_device, State.dozeDevices_state]
      exact congrArg (fun v : Vector Device 16 => v[p.val].state) (devices.trans same.2.2.1)
    · rw [State.beginNext_sessions, sessions_eq_of_session fun y => edit.session_eq not_false, sessions, same.1]
    · rw [State.beginNext_supplies, supplies_eq_of_supply fun y => edit.supply_eq not_false, supplies, same.2.1]
    · rw [State.beginNext_wakeCause, (edit.counter_eq not_false).2.1, wakeCause, same.2.2.2]
    · rw [State.beginNext_tick, edit.untouched.tick, tick, base.tick]
    · exact base.store.trans (store.trans (edit.untouched.sameStore.trans (State.sameStore_beginNext _)))

/-! ### WAKING (R170 to R172) -/

theorem State.settleTicks_le (s : State) : s.settleTicks ≤ 2147483648 := by
  have bound : ∀ n, Config.settleTimes.getD n 1000 ≤ 1000 := fun n => by
    by_cases h : n < 8
    · have : ∀ i : Fin 8, Config.settleTimes.getD i.val 1000 ≤ 1000 := by decide
      exact this ⟨n, h⟩
    · rw [List.getD_eq_default _ _ (by simpa [Config.settleTimes] using h)]
  exact (bound _).trans (by omega)

/-- The counter in WAKING, before the devices or the supplies are told. -/
structure Wakes (cause : WakeCause) (s t : State) : Prop where
  counter : t.counter = .waking
  wakeCause : t.wakeCause = some cause
  supervision : t.deadlineOf .counter .supervision = some (ahead s.tick (s.settings.supervision * 1000))
  settle : t.deadlineOf .counter .settle = some (ahead s.tick s.settleTicks)
  sessions : t.sessions = s.sessions
  tick : t.tick = s.tick
  store : SameStore s t

theorem State.enterWaking_spec (s : State) (cause : WakeCause) (reason : CounterReason) : ∃ o l,
    s.enterWaking cause reason = { s with counter := .waking, wakeCause := some cause, outbound := o, deadlines := l } :=
  ⟨_, _, rfl⟩

theorem State.enterWaking_deadlineOf (s : State) (cause : WakeCause) (reason : CounterReason) (k : DeadlineKind) :
    (s.enterWaking cause reason).deadlineOf .counter k =
      (({ s with wakeCause := some cause }.placeDeadline .counter .settle s.settleTicks).placeSupervision).deadlineOf
        .counter k := rfl

theorem State.wakes (s : State) (cause : WakeCause) (reason : CounterReason) :
    Wakes cause s (s.enterWaking cause reason) := by
  obtain ⟨o, l, e⟩ := s.enterWaking_spec cause reason
  constructor
  case supervision =>
    rw [State.enterWaking_deadlineOf]
    exact State.deadlineOf_placeDeadline _ _ _ _
  case settle =>
    rw [State.enterWaking_deadlineOf, State.placeSupervision, State.deadlineOf_placeDeadline_of_ne _ _ _ _ _ _ (by simp),
      State.deadlineOf_placeDeadline]
  all_goals rw [e]
  case store => exact ⟨rfl, rfl, rfl, rfl, rfl, rfl⟩

theorem State.mem_enterWaking {cause : WakeCause} {reason : CounterReason} {i : Item} (hi : i.key = none)
    (h : i ∈ s.outbound) : i ∈ (s.enterWaking cause reason).outbound :=
  mem_coalesce_of_mem _ _ _ i _ h (by rw [hi]; simp)

/-- An event that takes the counter to WAKING, taken whole: a settle time of 0 opens it at once (log 6). -/
theorem State.whole_of_waking {before : State} {n : Nat} (hn : n ≤ 2147483648) (hb : before.counter ≠ .waking)
    (hc : s.counter = .waking) (hd : s.deadlineOf .counter .settle = some (ahead s.tick n)) :
    (s.whole before).counter = (if n = 0 then .opened else .waking)
      ∧ (n ≠ 0 → (s.whole before).deadlineOf .counter .settle = some (ahead s.tick n)) := by
  have due : (s.deadlineOf .counter .settle).any (isDue s.tick) = true ↔ n = 0 := by
    rw [hd, Option.any_some, isDue_ahead_iff_distance_eq_zero s.tick hn, distance_ahead s.tick (by omega)]
  rw [State.whole, State.passZeroSettle, State.beginNext_counter, State.beginNext_deadlineOf]
  by_cases h : n = 0
  · rw [if_pos ⟨hb, hc, due.2 h⟩, if_pos h]
    exact ⟨rfl, fun g => absurd h g⟩
  · rw [if_neg fun c => h (due.1 c.2.2), if_neg h]
    exact ⟨hc, fun _ => hd⟩

/-! ### OPEN-COUNTER (R172) -/

theorem edited_wakeDevices_only (s : State) : Edited .ports s s.wakeDevices :=
  edited_forPorts fun p s => edited_ite (edited_queueCommand s p _ trivial) .refl

theorem State.openCounter_starting (h : s.counter = .starting) : s.openCounter f = s.answer f .wrongState false [] := by
  unfold State.openCounter
  rw [h]
  rfl

theorem State.openCounter_open (h : s.counter = .opened ∨ s.counter = .waking) :
    s.openCounter f = s.answer f .done false [] := by
  unfold State.openCounter
  rcases h with h | h <;> rw [h]

theorem State.openCounter_lull (h : s.counter = .lull) : s.openCounter f =
    ((s.answer f .done false []).enterWaking workstationWake .woken).wakeDevices := by
  unfold State.openCounter
  rw [h]
  rfl

theorem State.openCounter_closed (h : s.counter = .closed) : s.openCounter f =
    ((s.answer f .done false []).enterWaking workstationWake .opened).startSupplies .counterOpened := by
  unfold State.openCounter
  rw [h]

theorem State.openCounter_orphaned (h : s.counter = .orphaned) : s.openCounter f =
    (s.answer f .done false []).reopen := by
  unfold State.openCounter
  rw [h]

theorem Wakes.queued {cause : WakeCause} {t u : State} (h : Wakes cause s t) (e : Edited .ports t u) :
    Wakes cause s u := by
  constructor
  case counter => rw [(e.counter_eq not_false).1, h.counter]
  case wakeCause => rw [(e.counter_eq not_false).2.1, h.wakeCause]
  case supervision => rw [e.deadlineOf_eq (o := .counter) not_false, h.supervision]
  case settle => rw [e.deadlineOf_eq (o := .counter) not_false, h.settle]
  case sessions => rw [sessions_eq_of_session fun y => e.session_eq not_false, h.sessions]
  case tick => rw [e.untouched.tick, h.tick]
  case store => exact h.store.trans e.untouched.sameStore

theorem Starts.sameStore {t : State} (h : Starts s t) : SameStore s t := by
  rw [h.same]
  exact ⟨rfl, rfl, rfl, rfl, rfl, rfl⟩

theorem Starts.wakes {cause : WakeCause} {t u : State} (h : Wakes cause s t) (e : Starts t u) : Wakes cause s u := by
  constructor
  case counter => rw [e.same, h.counter]
  case wakeCause => rw [e.same, h.wakeCause]
  case supervision => rw [e.deadlineOf _ _ (by simp), h.supervision]
  case settle => rw [e.deadlineOf _ _ (by simp), h.settle]
  case sessions => rw [e.same, h.sessions]
  case tick => rw [e.same, h.tick]
  case store => exact h.store.trans e.sameStore

/-- The counter woken by an event that is taken whole. -/
theorem Wakes.whole {cause : WakeCause} {t before : State} (h : Wakes cause s t) (hb : before.counter ≠ .waking) :
    (t.whole before).counter = (if s.settleTicks = 0 then .opened else .waking)
      ∧ (t.whole before).wakeCause = some cause
      ∧ (t.whole before).deadlineOf .counter .supervision = some (ahead s.tick (s.settings.supervision * 1000))
      ∧ (s.settleTicks ≠ 0 → (t.whole before).deadlineOf .counter .settle = some (ahead s.tick s.settleTicks))
      ∧ (t.whole before).sessions = s.sessions ∧ (t.whole before).tick = s.tick ∧ SameStore s (t.whole before) := by
  have settle := h.settle
  rw [← h.tick] at settle
  obtain ⟨counter, placed⟩ := State.whole_of_waking s.settleTicks_le hb h.counter settle
  rw [h.tick] at placed
  refine ⟨counter, ?_, ?_, placed, ?_, ?_, h.store.trans (State.sameStore_whole _ _)⟩
  · rw [State.whole_wakeCause, h.wakeCause]
  · rw [State.whole_deadlineOf _ _ _ _ (by simp), h.supervision]
  · rw [State.whole_sessions, h.sessions]
  · rw [State.whole_tick, h.tick]

/-- Settles O18. -/
theorem openCounterWakesOrReopens : Obligations.OpenCounterWakesOrReopens := by
  intro s q ht
  have row := exec_openCounter s q
  generalize hv : s.takeHead.append (.reply q 0x8F .done false []) = v
  have base : StationFrame 0 s v := hv ▸ stationFrame_taken (s := s) (st := 0) _
  have sessions : v.sessions = s.sessions := by rw [← hv]; simp
  have supplies : v.supplies = s.supplies := by rw [← hv]; simp
  have textOwed : v.textOwed = s.textOwed := by rw [← hv]; simp
  have settings : v.settings = s.settings := base.store.1
  have ticks : v.settleTicks = s.settleTicks := by rw [State.settleTicks, settings, State.settleTicks]
  have reply : .reply q 0x8F .done false [] ∈ v.outbound := hv ▸ State.mem_append _ _
  refine ⟨fun h => ?_, fun h => ?_, fun h => ?_, fun h => ?_, fun h => ?_⟩
  · exact exec_of_answer row ht (State.openCounter_starting (by simpa using h))
  · exact exec_of_answer row ht (State.openCounter_open (by simpa using h))
  · have run := exec_of_reply row ht (fun u => (u.enterWaking workstationWake .woken).wakeDevices)
      (State.openCounter_lull (by simpa using h)) (k := 0x8F)
    rw [hv] at run
    have edit := edited_wakeDevices_only (v.enterWaking workstationWake .woken)
    have woken := ((v.wakes workstationWake .woken).queued edit).whole (before := s) (by rw [h]; decide)
    rw [ticks, settings, base.tick, sessions] at woken
    obtain ⟨counter, cause, supervision, settle, same, tick, store⟩ := woken
    obtain ⟨o, l, e⟩ := v.enterWaking_spec workstationWake .woken
    refine ⟨_, run, counter, cause, supervision, settle, ?_, same, ?_, tick, base.store.trans store⟩
    · exact State.shows_whole _ _ rfl (edit.mem_outbound rfl (State.mem_enterWaking rfl reply))
    · rw [State.whole_supplies, supplies_eq_of_supply fun y => edit.supply_eq not_false, e, supplies]
  · have run := exec_of_reply row ht (fun u => (u.enterWaking workstationWake .opened).startSupplies .counterOpened)
      (State.openCounter_closed (by simpa using h)) (k := 0x8F)
    rw [hv] at run
    have starts := starts_startSupplies (v.enterWaking workstationWake .opened) .counterOpened
    have woken := (starts.wakes (v.wakes workstationWake .opened)).whole (before := s) (by rw [h]; decide)
    rw [ticks, settings, base.tick, sessions] at woken
    obtain ⟨counter, cause, supervision, settle, same, tick, store⟩ := woken
    obtain ⟨o, l, e⟩ := v.enterWaking_spec workstationWake .opened
    have supply : ∀ st, (v.enterWaking workstationWake .opened).supply st = s.supply st := fun st => by
      rw [← base.supply st, e]
      rfl
    refine ⟨_, run, counter, cause, supervision, settle, fun st => ?_, ?_, same, tick, base.store.trans store⟩
    · rw [State.whole_supply, State.startSupplies_supply, supply]
      split <;> rfl
    · exact State.shows_whole _ _ rfl (starts.mem _ rfl (State.mem_enterWaking rfl reply))
  · have run := exec_of_reply row ht State.reopen (State.openCounter_orphaned (by simpa using h)) (k := 0x8F)
    have r := v.reopens
    rw [hv, State.whole_of_ne (.inl (by rw [r.counter]; decide))] at run
    refine ⟨_, run, ?_, ?_, fun st => ?_, ?_, ?_, ?_, ?_, base.store.trans (r.store.trans (State.sameStore_beginNext _))⟩
    · rw [State.beginNext_counter, r.counter]
    · rw [State.beginNext_deadlineOf, r.supervision, settings, base.tick]
    · have owed := r.textOwed st
      rw [textOwed, show v.session st = s.session st from congrArg (fun v : Vector Session 8 => v[st.val]) sessions] at owed
      exact (congrArg (fun v : Vector (Option OwedText) 8 => v[st.val]) (State.beginNext_textOwed v.reopen)).trans owed
    · exact (edited_reopen v).shows_beginNext rfl reply
    · rw [State.beginNext_sessions, r.sessions, sessions]
    · rw [State.beginNext_supplies, r.supplies, supplies]
    · rw [State.beginNext_tick, r.tick, base.tick]

end Sys2Proof.Machine
end

section
/-! PROOFS. The receiver reads back every frame laid out as section 11.2 gives (R182, R183). -/

namespace Sys2Proof.Machine

variable {s : State} {k q : Byte} {payload : List Byte}

theorem num16_byteOf {n : Nat} (h : n < 65536) : num16 (byteOf n) (byteOf (n / 256)) = n := by
  simp only [num16, byteOf, BitVec.toNat_ofNat]
  omega

/-- The bytes of a frame after its start byte. -/
def frameBytes (k q : Byte) (payload : List Byte) : List Byte :=
  let body := le16 (payload.length + 2) ++ k :: q :: payload
  body ++ crcBytes body

theorem frameBytes_eq (k q : Byte) (payload : List Byte) : frameBytes k q payload =
    byteOf (payload.length + 2) :: byteOf ((payload.length + 2) / 256) :: ((k :: q :: payload) ++
      crcBytes (byteOf (payload.length + 2) :: byteOf ((payload.length + 2) / 256) :: k :: q :: payload)) := rfl

theorem length_frameBytes (k q : Byte) (payload : List Byte) : (frameBytes k q payload).length = payload.length + 6 :=
  by
  simp [frameBytes, le16, crcBytes]

/-- While bytes of the frame are still to come, the receiver goes on (R183). -/
theorem assemble_more (h : payload.length ≤ 241) {before after : List Byte}
    (e : before ++ after = frameBytes k q payload) (more : after ≠ []) : assemble before = .more := by
  have total := congrArg List.length e
  rw [List.length_append, length_frameBytes] at total
  have pos := List.length_pos_iff.2 more
  match before with
  | [] => rfl
  | [_] => rfl
  | lo :: hi :: rest =>
    rw [frameBytes_eq] at e
    obtain ⟨hlo, e⟩ := List.cons.inj e
    obtain ⟨hhi, -⟩ := List.cons.inj e
    have n : num16 lo hi = payload.length + 2 := by rw [hlo, hhi, num16_byteOf (by omega)]
    have bounds : ¬(payload.length + 2 < 2 ∨ Config.maxPayload + 2 < payload.length + 2) := by
      simp only [Config.maxPayload]
      omega
    simp only [assemble, n]
    rw [if_neg bounds, if_pos]
    simp only [List.length_cons] at total
    omega

/-- The whole of a frame is good, with the kind, sequence and payload it was made from (R183). -/
theorem assemble_frameBytes (h : payload.length ≤ 241) : assemble (frameBytes k q payload) = .good ⟨k, q, payload⟩ := by
  have n : num16 (byteOf (payload.length + 2)) (byteOf ((payload.length + 2) / 256)) = payload.length + 2 :=
    num16_byteOf (by omega)
  have bounds : ¬(payload.length + 2 < 2 ∨ Config.maxPayload + 2 < payload.length + 2) := by
    simp only [Config.maxPayload]
    omega
  have inner : (k :: q :: payload).length = payload.length + 2 := rfl
  have long : ∀ c, ¬((k :: q :: payload) ++ crcBytes c).length < payload.length + 2 + 2 := fun c => by simp [crcBytes]
  rw [frameBytes_eq]
  simp only [assemble, n]
  rw [if_neg bounds, if_neg (long _), ← inner, List.drop_left, List.take_left, if_pos rfl]

/-! ### The bytes of a frame arriving (R183) -/

/-- The receiver in a frame begun at this tick. -/
def State.assembling (s : State) (bytes : List Byte) : State := { s with receiver := .assembling bytes s.tick }

/-- The receiver back at hunting. -/
def State.hunting (s : State) : State := { s with receiver := .hunting }

theorem State.receiveByte_more {bytes : List Byte} {b : Byte} (fits : s.rate.fits (bytes.length + 2) 0 = true)
    (more : assemble (bytes ++ [b]) = .more) : (s.assembling bytes).receiveByte ⟨b, true⟩ = s.assembling (bytes ++ [b]) := by
  have now : s.rate.fits (bytes.length + 2) (s.tick - s.tick).toNat = true := by rwa [BitVec.sub_self]
  have e : (s.assembling bytes).receiveByte ⟨b, true⟩ = (s.assembling bytes).frameByte bytes s.tick ⟨b, true⟩ := if_pos now
  rw [e, State.frameByte]
  simp only [more]
  rfl

theorem State.receiveByte_good {bytes : List Byte} {b : Byte} {f : Frame}
    (fits : s.rate.fits (bytes.length + 2) 0 = true) (good : assemble (bytes ++ [b]) = .good f) :
    (s.assembling bytes).receiveByte ⟨b, true⟩ = s.hunting.goodFrame f := by
  have now : s.rate.fits (bytes.length + 2) (s.tick - s.tick).toNat = true := by rwa [BitVec.sub_self]
  have e : (s.assembling bytes).receiveByte ⟨b, true⟩ = (s.assembling bytes).frameByte bytes s.tick ⟨b, true⟩ := if_pos now
  rw [e, State.frameByte]
  simp only [good]
  rfl

theorem Rate.fits_of_le {r : Rate} {m n : Nat} (h : r.fits n 0 = true) (le : m ≤ n) : r.fits m 0 = true := by
  have bound := of_decide_eq_true h
  exact decide_eq_true ((Nat.add_le_add_right (Nat.mul_le_mul_right _ le) _).trans bound)

/-- The rest of a frame's bytes, after those taken so far. -/
theorem State.receiveBytes_frame (h : payload.length ≤ 241) (fits : s.rate.fits (payload.length + 7) 0 = true)
    (before after : List Byte) (e : before ++ after = frameBytes k q payload) (more : after ≠ []) :
    (s.assembling before).receiveBytes (onLine after) = s.hunting.goodFrame ⟨k, q, payload⟩ := by
  induction after generalizing before with
  | nil => exact absurd rfl more
  | cons b rest ih =>
    have total := congrArg List.length e
    rw [List.length_append, length_frameBytes, List.length_cons] at total
    have inTime : s.rate.fits (before.length + 2) 0 = true := Rate.fits_of_le fits (by omega)
    have e' : (before ++ [b]) ++ rest = frameBytes k q payload := by rw [← e]; simp
    by_cases last : rest = []
    · subst last
      have good : assemble (before ++ [b]) = .good ⟨k, q, payload⟩ := by rw [e, assemble_frameBytes h]
      exact State.receiveByte_good inTime good
    · have next := State.receiveByte_more inTime (assemble_more h e' last)
      have g := ih (before ++ [b]) e' last
      rw [← next] at g
      exact g

/-- Settles O23. -/
theorem linkFrameRoundTrip : Obligations.LinkFrameRoundTrip := by
  intro s k q payload hunting h fits
  have start : s.receiveByte ⟨0xA5, true⟩ = s.assembling [] := by
    rw [State.receiveByte, hunting]
    rfl
  have same : s.hunting = s := by rw [State.hunting, ← hunting]
  have bytes : s.receiveBytes (onLine (linkFrame k q payload)) = s.goodFrame ⟨k, q, payload⟩ := by
    have g := State.receiveBytes_frame (k := k) (q := q) h fits [] (frameBytes k q payload) rfl (by simp [frameBytes_eq])
    rw [same, ← start] at g
    exact g
  have counter : (s.goodFrame ⟨k, q, payload⟩).counter = if s.counter = .orphaned then .opened else s.counter := by
    rw [State.goodFrame, State.appendFrame_eq]
    exact s.frameSeen.counter
  show eventRow (fun s => s.receiveBytes (onLine (linkFrame k q payload))) s = _
  rw [eventRow, bytes, State.whole_of_ne]
  rw [counter]
  by_cases w : s.counter = .waking
  · exact .inr w
  · refine .inl ?_
    split
    · decide
    · exact w

end Sys2Proof.Machine
end

section
/-! PROOFS. The bus scheduler's choice (R132, R133, R144, R146). -/

namespace Sys2Proof.Machine

variable {s : State} {st : Station} {p : Port} {r : Request}

/-! ### The device due first (R144) -/

theorem longestWaiting_none {w : Port → Option Nat} {l : List Port} (h : longestWaiting w l = none) :
    ∀ y ∈ l, w y = none := by
  induction l with
  | nil => simp
  | cons x xs ih =>
    rw [longestWaiting] at h
    split at h
    · rename_i wx
      exact List.forall_mem_cons.2 ⟨wx, ih h⟩
    · cases h
    · split at h <;> cases h

/-- In a list in order of address, the device chosen has waited longest, and is the lowest of those that have. -/
theorem longestWaiting_some {w : Port → Option Nat} {l : List Port} (order : l.Pairwise (· < ·))
    (h : longestWaiting w l = some p) : p ∈ l ∧ ∃ n, w p = some n ∧ ∀ y ∈ l, ∀ v, w y = some v → v < n ∨ (v = n ∧ p ≤ y) := by
  induction l generalizing p with
  | nil => cases h
  | cons x xs ih =>
    obtain ⟨first, rest⟩ := List.pairwise_cons.1 order
    rw [longestWaiting] at h
    split at h
    · rename_i wx
      obtain ⟨mem, n, wp, longest⟩ := ih rest h
      refine ⟨List.mem_cons_of_mem x mem, n, wp, List.forall_mem_cons.2 ⟨fun v wv => ?_, longest⟩⟩
      rw [wx] at wv
      cases wv
    · rename_i a wx none_
      cases h
      refine ⟨List.mem_cons_self, a, wx, List.forall_mem_cons.2 ⟨fun v wv => ?_, fun y hy v wv => ?_⟩⟩
      · rw [wx] at wv
        cases wv
        exact .inr ⟨rfl, le_rfl⟩
      · rw [longestWaiting_none none_ y hy] at wv
        cases wv
    · rename_i a q wx some_
      obtain ⟨mem, n, wq, longest⟩ := ih rest some_
      rw [wq, Option.getD_some] at h
      split at h
      · rename_i le
        cases h
        refine ⟨List.mem_cons_self, a, wx, List.forall_mem_cons.2 ⟨fun v wv => ?_, fun y hy v wv => ?_⟩⟩
        · rw [wx] at wv
          cases wv
          exact .inr ⟨rfl, le_rfl⟩
        · rcases Nat.lt_or_ge v a with lt | ge
          · exact .inl lt
          · refine .inr ⟨?_, (first y hy).le⟩
            rcases longest y hy v wv with g | ⟨g, -⟩ <;> omega
      · rename_i gt
        cases h
        refine ⟨List.mem_cons_of_mem x mem, n, wq, List.forall_mem_cons.2 ⟨fun v wv => ?_, longest⟩⟩
        rw [wx] at wv
        cases wv
        exact .inl (Nat.lt_of_not_le gt)

theorem ports_ordered (q : Port → Bool) : (ports.filter q).Pairwise (· < ·) :=
  List.Pairwise.filter q (by decide)

theorem PortState.addressed_of_engaged {x : PortState} (h : x = .engaged) : x.addressed = true := by
  rw [h]
  rfl

/-- The device chosen: an ENGAGED one if one is due, and in its class the one due longest (R144). -/
theorem State.chooseDue_some (h : s.chooseDue = some p) : (s.device p).state.addressed = true
    ∧ (∃ w, s.waited p = some w ∧ ∀ y v, (s.device y).state.addressed = true → s.waited y = some v →
      ((s.device y).state = .engaged ↔ (s.device p).state = .engaged) → v < w ∨ (v = w ∧ p ≤ y))
    ∧ ((∃ y, (s.waited y).isSome = true ∧ (s.device y).state = .engaged) → (s.device p).state = .engaged) := by
  unfold State.chooseDue at h
  split at h
  · rename_i x hx
    cases h
    obtain ⟨mem, w, wp, longest⟩ := longestWaiting_some (ports_ordered _) hx
    have engaged : (s.device p).state = .engaged := by simpa using (List.mem_filter.1 mem).2
    exact ⟨PortState.addressed_of_engaged engaged, ⟨w, wp, fun y v _ wy same => longest y (List.mem_filter.2
      ⟨mem_ports y, by simpa using same.2 engaged⟩) v wy⟩, fun _ => engaged⟩
  · rename_i none_
    obtain ⟨mem, w, wp, longest⟩ := longestWaiting_some (ports_ordered _) h
    refine ⟨(List.mem_filter.1 mem).2, ⟨w, wp, fun y v addressed wy _ => longest y (List.mem_filter.2
      ⟨mem_ports y, addressed⟩) v wy⟩, fun ⟨y, due, engaged⟩ => ?_⟩
    rw [longestWaiting_none none_ y (List.mem_filter.2 ⟨mem_ports y, by simpa using engaged⟩)] at due
    cases due

theorem State.chooseDue_of_due (due : (s.waited p).isSome = true) (h : (s.device p).state.addressed = true) :
    ∃ q, s.chooseDue = some q := by
  unfold State.chooseDue
  split
  · exact ⟨_, rfl⟩
  · refine Option.ne_none_iff_exists'.1 fun none_ => ?_
    rw [longestWaiting_none none_ p (List.mem_filter.2 ⟨mem_ports p, h⟩)] at due
    cases due

theorem State.requestFor_of_addressed (h : (s.device p).state.addressed = true) : ∃ r, s.requestFor p = some r := by
  unfold State.requestFor
  cases hs : (s.device p).state with
  | held => rw [hs] at h; cases h
  | unpowered => rw [hs] at h; cases h
  | joining =>
    dsimp only
    split
    · exact ⟨_, rfl⟩
    · exact ⟨_, rfl⟩
  | restarting =>
    dsimp only
    split
    · exact ⟨_, rfl⟩
    · exact ⟨_, rfl⟩
  | _ => exact ⟨_, rfl⟩

/-! ### An exchange begun (R124, R132, R133) -/

variable (s p r)

/-- The flight of a request that is not a DIAG. -/
def State.flightOf : Flight :=
  ⟨p, r, ((s.device p).carriedBy r).map fun c => (c, (s.device p).commandToggle),
    r == .configure && s.counter == .lull, none, requestFrame p r (s.device p).batchToggle (s.device p).commandToggle
      (requestPayload r ((s.device p).carriedBy r) (r == .configure && s.counter == .lull))⟩

/-- The device as its exchange begins: the head of its queue in carriage. -/
def State.carriageBegun : State :=
  if ((s.device p).carriedBy r).isSome then (s.setDue p none).setDevice p { s.device p with inCarriage := true }
  else s.setDue p none

/-- What an exchange that begins does to its device: it is due no more, and owed no RESET-DEVICE. -/
def State.toCarry : State :=
  if r = .resetDevice then (s.carriageBegun p r).setOwed p none else s.carriageBegun p r

/-- The exchange in flight. -/
def State.withFlight (f : Flight) : State := { s with flight := some f }

theorem State.beginExchange_eq : s.beginExchange p r = (s.toCarry p r).withFlight (s.flightOf p r) := rfl

theorem edited_toCarry : Edited (.device p) s (s.toCarry p r) := by
  have begun : Edited (.device p) s (s.carriageBegun p r) := by
    unfold State.carriageBegun
    split
    · exact .device p _ (.due p _ .refl rfl) rfl (.inl le_rfl)
    · exact .due p _ .refl rfl
  unfold State.toCarry
  split
  · exact .owed p _ begun rfl
  · exact begun

theorem State.toCarry_due : (s.toCarry p r).due p = none := by
  have begun : (s.carriageBegun p r).due p = none := by
    unfold State.carriageBegun
    split
    · rw [State.setDevice_due, State.due_setDue]
    · exact s.due_setDue p none
  unfold State.toCarry
  split
  · rw [State.setOwed_due, begun]
  · exact begun

theorem State.toCarry_inCarriage (h : ((s.device p).carriedBy r).isSome = true) :
    ((s.toCarry p r).device p).inCarriage = true := by
  have begun : ((s.carriageBegun p r).device p).inCarriage = true := by
    rw [State.carriageBegun, if_pos h, State.device_setDevice]
  unfold State.toCarry
  split
  · rw [State.setOwed_device, begun]
  · exact begun

theorem State.toCarry_owes (h : r = .resetDevice) : (s.toCarry p r).owes p = none := by
  rw [State.toCarry, if_pos h, State.owes_setOwed]

@[simp] theorem State.withFlight_sessions (f : Flight) : (s.withFlight f).sessions = s.sessions := rfl
@[simp] theorem State.withFlight_supplies (f : Flight) : (s.withFlight f).supplies = s.supplies := rfl
@[simp] theorem State.withFlight_counter (f : Flight) : (s.withFlight f).counter = s.counter := rfl
@[simp] theorem State.withFlight_tick (f : Flight) : (s.withFlight f).tick = s.tick := rfl
@[simp] theorem State.withFlight_device (f : Flight) (x : Port) : (s.withFlight f).device x = s.device x := rfl
@[simp] theorem State.withFlight_due (f : Flight) (x : Port) : (s.withFlight f).due x = s.due x := rfl
@[simp] theorem State.withFlight_owes (f : Flight) (x : Port) : (s.withFlight f).owes x = s.owes x := rfl
@[simp] theorem State.withFlight_flight (f : Flight) : (s.withFlight f).flight = some f := rfl
theorem State.sameStore_withFlight (f : Flight) : SameStore s (s.withFlight f) := ⟨rfl, rfl, rfl, rfl, rfl, rfl⟩

theorem exec_busArbitrate : exec .busArbitrate s = eventRow State.arbitrate s := rfl

variable {s p r}

theorem State.carryDue_of_choice (h : s.chooseDue = some p) (g : s.requestFor p = some r) :
    s.carryDue = (s.toCarry p r).withFlight (s.flightOf p r) := by
  rw [State.carryDue, h]
  simp only [g, State.beginExchange_eq]

/-- Settles O40. -/
theorem arbiterCarriesTheDeviceDueFirst : Obligations.ArbiterCarriesTheDeviceDueFirst := by
  intro s hf hd ⟨x, due, addressed⟩
  obtain ⟨p, choice⟩ := State.chooseDue_of_due due addressed
  obtain ⟨able, first, class_⟩ := State.chooseDue_some choice
  obtain ⟨r, hr⟩ := State.requestFor_of_addressed able
  have edit := edited_toCarry s p r
  have arbitrate : s.arbitrate = (s.toCarry p r).withFlight (s.flightOf p r) := by
    rw [State.arbitrate, if_neg (by simp [hf]), hd, ← State.carryDue_of_choice choice hr]
    exact if_pos (List.any_eq_true.2 ⟨x, mem_ports x, due⟩)
  have run : exec .busArbitrate s = .next ((s.toCarry p r).withFlight (s.flightOf p r)).beginNext := by
    rw [exec_busArbitrate, eventRow_of_same _ _ (by rw [arbitrate]; exact (edit.counter_eq not_false).1), arbitrate]
  refine ⟨_, s.flightOf p r, run, ?_, first, class_, hr, rfl, ?_, rfl, ?_, fun y hy => ?_, fun carried => ?_,
    fun y hy => ?_, fun reset => ?_, ?_, ?_, ?_, ?_, ?_⟩
  · rw [State.beginNext_flight, State.withFlight_flight]
  · show (((s.device p).carriedBy r).map _).map Prod.fst = _
    rw [Option.map_map]
    exact Option.map_id'
  · rw [State.beginNext_due, State.withFlight_due]
    exact s.toCarry_due p r
  · rw [State.beginNext_due, State.withFlight_due, edit.due_eq hy]
  · rw [State.beginNext_device, State.withFlight_device]
    exact s.toCarry_inCarriage p r (by simpa [State.flightOf] using carried)
  · rw [State.beginNext_device, State.withFlight_device, edit.device_eq hy]
  · rw [State.beginNext_owes, State.withFlight_owes]
    exact s.toCarry_owes p r reset
  · rw [State.beginNext_sessions, State.withFlight_sessions, sessions_eq_of_session fun y => edit.session_eq not_false]
  · rw [State.beginNext_supplies, State.withFlight_supplies, supplies_eq_of_supply fun y => edit.supply_eq not_false]
  · rw [State.beginNext_counter, State.withFlight_counter, (edit.counter_eq not_false).1]
  · rw [State.beginNext_tick, State.withFlight_tick, edit.untouched.tick]
  · exact edit.untouched.sameStore.trans ((State.sameStore_withFlight _ _).trans (State.sameStore_beginNext _))

/-! ### The direct exchange (R146) -/

theorem State.arbitrate_direct {x : Direct} (hf : s.flight = none) (hd : s.pendingDirect = some x) :
    s.arbitrate = s.carryDirect x := by
  rw [State.arbitrate, if_neg (by simp [hf]), hd]

/-- The exchange withdrawn and answered. -/
theorem State.withdrawDirect_spec (s : State) (x : Direct) : s.withdrawDirect x = { s with
    pendingDirect := none, outbound := s.outbound ++ [.reply x.sequence 0x8B .unavailable false []] } := rfl

theorem State.carryDue_cases (s : State) :
    s.carryDue = s ∨ ∃ p r, s.carryDue = (s.toCarry p r).withFlight (s.flightOf p r) := by
  cases choice : s.chooseDue with
  | none => exact .inl (by rw [State.carryDue, choice])
  | some p =>
    cases hr : s.requestFor p with
    | none => exact .inl (by rw [State.carryDue, choice]; simp only [hr])
    | some r => exact .inr ⟨p, r, State.carryDue_of_choice choice hr⟩

/-- What the arbiter's choice among the due devices leaves, with the bus free. -/
structure CarriesDue (s t : State) : Prop where
  flight : t.flight.all (fun f => f.direct.isNone) = true
  outbound : ∀ i, i.key = none → i ∈ s.outbound → i ∈ t.outbound
  pendingDirect : t.pendingDirect = s.pendingDirect
  sessions : t.sessions = s.sessions
  supplies : t.supplies = s.supplies
  counter : t.counter = s.counter
  tick : t.tick = s.tick
  store : SameStore s t

theorem State.carriesDue (s : State) (free : s.flight = none) : CarriesDue s s.carryDue := by
  rcases s.carryDue_cases with e | ⟨p, r, e⟩
  · rw [e]
    exact ⟨by rw [free]; rfl, fun _ _ h => h, rfl, rfl, rfl, rfl, rfl, rfl, rfl, rfl, rfl, rfl, rfl⟩
  · rw [e]
    have edit := edited_toCarry s p r
    exact ⟨rfl, fun i hi h => edit.mem_outbound hi h, edit.untouched.pendingDirect,
      sessions_eq_of_session fun y => edit.session_eq not_false, supplies_eq_of_supply fun y => edit.supply_eq not_false,
      (edit.counter_eq not_false).1, edit.untouched.tick, edit.untouched.sameStore⟩

/-- Settles O41. -/
theorem directExchangeGoesFirst : Obligations.DirectExchangeGoesFirst := by
  intro s x hf hd
  have arbitrate := State.arbitrate_direct hf hd
  refine ⟨fun h => ?_, fun h => ?_⟩
  · have carried : s.arbitrate = s.beginDirect x := by
      rw [arbitrate, State.carryDirect, if_pos]
      rcases h with h | h | h | h <;> rw [h] <;> rfl
    have run : exec .busArbitrate s = .next (s.beginDirect x).beginNext := by
      rw [exec_busArbitrate, eventRow_of_same _ _ (by rw [carried]; rfl), carried]
    refine ⟨_, run, ?_, ?_, ?_, ?_, ?_, ?_, ?_, ?_, ?_⟩
    · rw [State.beginNext_pendingDirect]; rfl
    · rw [State.beginNext_flight]; rfl
    · rw [State.beginNext_devices]; rfl
    · rw [State.beginNext_owed]; rfl
    · rw [State.beginNext_sessions]; rfl
    · rw [State.beginNext_supplies]; rfl
    · rw [State.beginNext_counter]; rfl
    · rw [State.beginNext_tick]; rfl
    · exact State.sameStore_beginNext _
  · have carried : s.arbitrate = (s.withdrawDirect x).carryDue := by
      rw [arbitrate, State.carryDirect, if_neg]
      rcases h with h | h | h <;> rw [h] <;> decide
    have c := (s.withdrawDirect x).carriesDue hf
    have run : exec .busArbitrate s = .next (s.withdrawDirect x).carryDue.beginNext := by
      rw [exec_busArbitrate, eventRow_of_same _ _ (by rw [carried]; exact c.counter), carried]
    refine ⟨_, run, ?_, ?_, ?_, ?_, ?_, ?_, ?_, ?_⟩
    · rw [State.beginNext_pendingDirect, c.pendingDirect]
      rfl
    · exact State.shows_beginNext _ _ (.inl (c.outbound _ rfl (by rw [State.withdrawDirect_spec]; simp)))
    · rw [State.beginNext_flight, c.flight]
    · rw [State.beginNext_sessions, c.sessions]
      rfl
    · rw [State.beginNext_supplies, c.supplies]
      rfl
    · rw [State.beginNext_counter, c.counter]
      rfl
    · rw [State.beginNext_tick, c.tick]
      rfl
    · exact SameStore.trans ⟨rfl, rfl, rfl, rfl, rfl, rfl⟩ (c.store.trans (State.sameStore_beginNext _))

end Sys2Proof.Machine
end

section
/-! PROOFS. The ends of exchanges: what a session that loses a device leaves of it, faults and restarts, and the outcomes
of PROBE, IDENTIFY and DIAG (R107 to R117, R136, R137, R142, R146). -/

namespace Sys2Proof.Machine

variable {s : State} {st : Station} {p : Port} {f : Flight} {a : Option Answer}

theorem Edited.owes_eq {A : Scope} {t : State} (h : Edited A s t) {x : Port} (hx : ¬A.port x) :
    t.owes x = s.owes x := by
  induction h with
  | owed q o _ b ih =>
    rw [State.owes_setOwed_of_ne _ (by rintro rfl; exact hx b)]
    exact ih
  | session => assumption
  | device => assumption
  | supply => assumption
  | due => assumption
  | place => assumption
  | remove => assumption
  | note => assumption
  | result => assumption
  | owedText => assumption
  | owedTexts => assumption
  | counter => assumption
  | wake => assumption
  | await => assumption
  | refl => rfl

/-! ### What the session engine leaves of a device that is not joined (R122, R120) -/

/-- Everything of the sessions and the ports but one device. -/
def Scope.but (p : Port) : Scope := ⟨fun _ => True, fun x => x ≠ p, fun _ => False, False⟩

theorem Edited.state_but {t : State} (e : Edited (.but p) s t) (hj : (s.device p).state.joined = false) :
    (t.device p).state.joined = false := by
  rw [e.device_eq (not_not_intro rfl), hj]

section But

variable (st) (hj : (s.device p).state.joined = false)
include hj

theorem edited_queueCommand_but (x : Port) (q : Queued) : Edited (.but p) s (s.queueCommand x q) := by
  by_cases h : x = p
  · rw [h, State.queueCommand, if_neg (by simp [State.acceptsCommand, hj])]
    exact .refl
  · exact edited_queueCommand s x q h

theorem edited_sessionAwait_but (x : Port) (c : DeviceCommand) (u : Purpose) :
    Edited (.but p) s (s.sessionAwait st x c u) := by
  have queued := edited_queueCommand_but hj x ⟨c, .session st (s.session st).serial u⟩
  unfold State.sessionAwait
  dsimp only
  split
  · exact .session st _ queued trivial
  · exact queued

/-- A command awaited, with what the record then says of its device. -/
theorem edited_awaitStep_but (q : Bool) (x : Port) (c : DeviceCommand) (u : Purpose) (g : Session → Session) :
    Edited (.but p) s (if q then (s.sessionAwait st x c u).modifySession st g else s) := by
  split
  · exact .session st _ (edited_sessionAwait_but st hj x c u) trivial
  · exact .refl

theorem edited_windDown_but : Edited (.but p) s (s.windDown st) := by
  have stops : Edited (.but p) s (s.stopInputs st) := by
    have first := edited_awaitStep_but st hj (s.engaged (readerOf st) && (s.session st).readerIntake) (readerOf st)
      .intakeOff .windDown fun r => { r with readerIntake := false }
    exact first.trans (edited_awaitStep_but st (first.state_but hj) _ _ _ _ _)
  rw [State.windDown_eq]
  split
  · exact stops.trans (edited_sessionAwait_but st (stops.state_but hj) _ _ _)
  · exact stops

theorem edited_releasePort_but (x : Port) : Edited (.but p) s (s.releasePort x) := by
  unfold State.releasePort
  split
  · rename_i engaged
    refine edited_changePort s x _ _ fun h => ?_
    rw [h] at engaged
    rw [State.joined_of_engaged _ engaged] at hj
    cases hj
  · exact .refl

theorem edited_settleTextOwed_but : Edited (.but p) s (s.settleTextOwed st) := by
  have owed : Edited (.but p) s { s with textOwed := s.textOwed.set st.val none } := .owedText st none .refl trivial
  unfold State.settleTextOwed
  dsimp only
  split
  · split
    · exact owed.trans (edited_queueCommand_but (owed.state_but hj) _ _)
    · exact owed
  · exact owed

theorem edited_completeEnding_but : Edited (.but p) s (s.completeEnding st) := by
  have ended : Edited (.but p) s (s.withSessionEnd st) := by
    unfold State.withSessionEnd
    split
    · exact .result _ .refl rfl rfl
    · exact .refl
  have reader := ended.trans (edited_releasePort_but (ended.state_but hj) (readerOf st))
  have keypad := reader.trans (edited_releasePort_but (reader.state_but hj) (keypadOf st))
  have record : Edited (.but p) s ((((s.withSessionEnd st).releasePort (readerOf st)).releasePort
      (keypadOf st)).modifySession st Session.ended) := .session st _ keypad trivial
  exact record.trans (edited_settleTextOwed_but st (record.state_but hj))

theorem edited_tryComplete_but : Edited (.but p) s (s.tryComplete st) := by
  unfold State.tryComplete
  split
  · exact edited_completeEnding_but st hj
  · exact .refl

theorem edited_enterEnding_but (cause : EndCause) : Edited (.but p) s (s.enterEnding st cause) := by
  have record : Edited (.but p) s ((s.modifySession st (Session.toEnding cause)).removeSessionDeadlines st) :=
    .remove _ _ (.remove _ _ (.remove _ _ (.session st _ .refl trivial) trivial) trivial) trivial
  have wound := record.trans (edited_windDown_but st (record.state_but hj))
  exact wound.trans (edited_tryComplete_but st (wound.state_but hj))

/-- A session told of a loss leaves a device that is not joined. -/
theorem edited_sessionLoss_but (x : Port) : Edited (.but p) s (s.sessionLoss x) := by
  have forgotten : Edited (.but p) s (s.modifySession (stationOf x) (Session.forget x)) := .session _ _ .refl trivial
  unfold State.sessionLoss
  dsimp only
  split
  · split
    · exact .refl
    · exact .session _ _ .refl trivial
  · exact edited_enterEnding_but _ hj _
  · exact forgotten.trans (edited_tryComplete_but _ (forgotten.state_but hj))
  · exact .refl

end But

/-! ### A fault of a joined device (R113, R114) -/

variable (s p)

/-- A device with a fault recorded, its queue dropped. -/
def Device.faulty (d : Device) (f : LastFault) : Device := { d.emptyQueue with lastFault := some f, missRun := 0 }

/-- A device at fault, restarted or set aside, before its session is told. -/
def State.faulted (f : LastFault) : State :=
  ((s.setDevice p ((s.device p).faulty f)).removeDeadline (.device p) .device).restartOnFault p f.reason

theorem State.deviceFault_eq (f : LastFault) :
    s.deviceFault p f = if s.engaged p then (s.faulted p f).sessionLoss p else s.faulted p f := rfl

theorem State.restartOnFault_below (reason : DeviceReason) (h : (s.device p).restartCount < s.settings.restartLimit) :
    s.restartOnFault p reason =
      ((s.setDevice p { s.device p with restartCount := (s.device p).restartCount + 1 }).changePort p .restarting
        reason).askReset p := if_pos h

theorem State.restartOnFault_at_limit (reason : DeviceReason) (h : s.settings.restartLimit ≤ (s.device p).restartCount) :
    s.restartOnFault p reason = s.hold p .restartLimit .restartLimit := if_neg (Nat.not_lt.2 h)

variable {s p}

/-- Below the restart limit a device at fault is restarted: a RESET-DEVICE is owed, and its window runs (R114). -/
theorem State.faulted_below (f : LastFault) (h : (s.device p).restartCount < s.settings.restartLimit) :
    (s.faulted p f).device p = { (s.device p).faulty f with
      restartCount := (s.device p).restartCount + 1, state := .restarting }
    ∧ (s.faulted p f).owes p = some .resetDevice
    ∧ (s.faulted p f).deadlineOf (.device p) .device = some (ahead s.tick 3000) := by
  have e : s.faulted p f = (((((s.setDevice p ((s.device p).faulty f)).removeDeadline (.device p) .device).setDevice p
      { (s.device p).faulty f with restartCount := (s.device p).restartCount + 1 }).changePort p .restarting
        f.reason).askReset p) := by
    rw [State.faulted, State.restartOnFault_below _ _ _ (by rw [State.removeDeadline_device, State.device_setDevice]; exact h),
      State.removeDeadline_device, State.device_setDevice]
    rfl
  rw [e]
  refine ⟨?_, State.askReset_owes _ _, ?_⟩
  · rw [State.askReset_device, State.changePort_device, State.device_setDevice]
  · rw [State.askReset_deadlineOf, State.changePort_tick]
    rfl

/-- At the limit it is set aside (R114, R117). -/
theorem State.faulted_at_limit (f : LastFault) (h : s.settings.restartLimit ≤ (s.device p).restartCount) :
    (s.faulted p f).device p = { (s.device p).faulty f with state := .held, heldReason := some .restartLimit } := by
  rw [State.faulted, State.restartOnFault_at_limit _ _ _ (by rw [State.removeDeadline_device, State.device_setDevice]; exact h),
    State.hold_device, State.removeDeadline_device, State.device_setDevice]

theorem State.faulted_not_joined (f : LastFault) : ((s.faulted p f).device p).state.joined = false := by
  rcases Nat.lt_or_ge (s.device p).restartCount s.settings.restartLimit with h | h
  · rw [(State.faulted_below f h).1]
    rfl
  · rw [State.faulted_at_limit f h]
    rfl

/-- The session told of a fault leaves the device as the fault made it. -/
theorem edited_deviceFault_after (f : LastFault) : Edited (.but p) (s.faulted p f) (s.deviceFault p f) := by
  rw [State.deviceFault_eq]
  split
  · exact edited_sessionLoss_but (State.faulted_not_joined f) p
  · exact .refl

theorem State.deviceFault_device (f : LastFault) : (s.deviceFault p f).device p = (s.faulted p f).device p :=
  (edited_deviceFault_after f).device_eq (not_not_intro rfl)

/-- What a fault makes of the device: restarted below the restart limit, and set aside at it (R113, R114). -/
theorem State.deviceFault_spec (f : LastFault) :
    ((s.deviceFault p f).device p).missRun = 0 ∧ ((s.deviceFault p f).device p).lastFault = some f
    ∧ ((s.deviceFault p f).device p).queue = [] ∧ ((s.deviceFault p f).device p).follower = none
    ∧ ((s.device p).restartCount < s.settings.restartLimit → ((s.deviceFault p f).device p).state = .restarting
      ∧ ((s.deviceFault p f).device p).restartCount = (s.device p).restartCount + 1
      ∧ (s.deviceFault p f).owes p = some .resetDevice
      ∧ (s.deviceFault p f).deadlineOf (.device p) .device = some (ahead s.tick 3000))
    ∧ (s.settings.restartLimit ≤ (s.device p).restartCount → ((s.deviceFault p f).device p).state = .held
      ∧ ((s.deviceFault p f).device p).heldReason = some .restartLimit) := by
  have after := edited_deviceFault_after (s := s) (p := p) f
  rw [State.deviceFault_device, after.owes_eq (not_not_intro rfl),
    after.deadlineOf_eq (o := .device p) (not_not_intro rfl)]
  rcases Nat.lt_or_ge (s.device p).restartCount s.settings.restartLimit with h | h
  · obtain ⟨device, owes, window⟩ := State.faulted_below f h
    rw [device, owes, window]
    exact ⟨rfl, rfl, rfl, rfl, fun _ => ⟨rfl, rfl, rfl, rfl⟩, fun g => absurd g (Nat.not_le.2 h)⟩
  · rw [State.faulted_at_limit f h]
    exact ⟨rfl, rfl, rfl, rfl, fun g => absurd g (Nat.not_lt.2 h), fun _ => ⟨rfl, rfl⟩⟩

/-! ### The reply of a direct exchange (R146) -/

section
variable (s f a)

/-- The state with the bus free again and the reply of a direct exchange placed. -/
def State.replied : State := { s with flight := none }.directReply f a

theorem State.replied_eq : s.replied f a =
    { s with
      flight := (s.replied f a).flight
      outbound := (s.replied f a).outbound } := by
  unfold State.replied State.directReply
  split
  · rfl
  · rfl
  · rfl
@[simp] theorem State.replied_tick : (s.replied f a).tick = s.tick := by rw [s.replied_eq f a]
@[simp] theorem State.replied_sending : (s.replied f a).sending = s.sending := by rw [s.replied_eq f a]
@[simp] theorem State.replied_settings : (s.replied f a).settings = s.settings := by rw [s.replied_eq f a]
@[simp] theorem State.replied_idleTexts : (s.replied f a).idleTexts = s.idleTexts := by rw [s.replied_eq f a]
@[simp] theorem State.replied_closedText : (s.replied f a).closedText = s.closedText := by rw [s.replied_eq f a]
@[simp] theorem State.replied_sessions : (s.replied f a).sessions = s.sessions := by rw [s.replied_eq f a]
@[simp] theorem State.replied_session (x : Station) : (s.replied f a).session x = s.session x := by simp [State.session]
@[simp] theorem State.replied_devices : (s.replied f a).devices = s.devices := by rw [s.replied_eq f a]
@[simp] theorem State.replied_device (x : Port) : (s.replied f a).device x = s.device x := by simp [State.device]
@[simp] theorem State.replied_supplies : (s.replied f a).supplies = s.supplies := by rw [s.replied_eq f a]
@[simp] theorem State.replied_nextDue : (s.replied f a).nextDue = s.nextDue := by rw [s.replied_eq f a]
@[simp] theorem State.replied_waited (x : Port) : (s.replied f a).waited x = s.waited x := by
  simp [State.waited, State.due]
@[simp] theorem State.replied_owed : (s.replied f a).owed = s.owed := by rw [s.replied_eq f a]
@[simp] theorem State.replied_owes (x : Port) : (s.replied f a).owes x = s.owes x := by simp [State.owes]
@[simp] theorem State.replied_deadlines : (s.replied f a).deadlines = s.deadlines := by rw [s.replied_eq f a]
@[simp] theorem State.replied_deadlineOf (o : Owner) (k : DeadlineKind) :
    (s.replied f a).deadlineOf o k = s.deadlineOf o k := by
  simp [State.deadlineOf]
@[simp] theorem State.replied_textOwed : (s.replied f a).textOwed = s.textOwed := by rw [s.replied_eq f a]
@[simp] theorem State.replied_counter : (s.replied f a).counter = s.counter := by rw [s.replied_eq f a]
@[simp] theorem State.replied_wakeMask : (s.replied f a).wakeMask = s.wakeMask := by rw [s.replied_eq f a]

end

/-- A reply placed stands. -/
theorem State.mem_replied {q : Byte} {x : Answer} (h : f.direct = some q) :
    .reply q 0x8B .done false (byteOf x.contents.diagPayload.length :: x.contents.diagPayload)
      ∈ (s.replied f (some x)).outbound := by
  unfold State.replied State.directReply
  simp only [h]
  exact State.mem_append _ _

/-! ### The due tick at the end of an exchange (R142) -/

section
variable (s p)

theorem State.dueAfterExchange_spec : ∃ n, s.dueAfterExchange p = { s with nextDue := n } := by
  unfold State.dueAfterExchange
  dsimp only
  split
  · exact ⟨_, rfl⟩
  · split
    · exact ⟨_, State.dueNow_eq s p⟩
    · exact ⟨_, rfl⟩

theorem State.dueAfterExchange_of_unaddressed (h : (s.device p).state.addressed = false) :
    (s.dueAfterExchange p).due p = none := by
  unfold State.dueAfterExchange
  dsimp only
  rw [if_pos (by simp [h])]
  exact s.due_setDue p none

/-- A device due at once stays due. -/
theorem State.dueAfterExchange_waited (h : (s.device p).state.addressed = true)
    (g : (s.device p).state = .joining ∨ (s.waited p).isSome = true) :
    ((s.dueAfterExchange p).waited p).isSome = true := by
  unfold State.dueAfterExchange
  dsimp only
  rw [if_neg (by simp [h]), if_pos (by rcases g with g | g <;> simp [g])]
  exact State.waited_dueNow s p

theorem State.dueAfterExchange_next (h : (s.device p).state.addressed = true) (g : (s.device p).state ≠ .joining)
    (w : s.waited p = none) : (s.dueAfterExchange p).due p =
      some (.next (ahead s.tick ((s.device p).state.interval (s.supply (stationOf p)).draw))) := by
  unfold State.dueAfterExchange
  dsimp only
  rw [if_neg (by simp [h]), if_neg (by simp [g, w])]
  exact s.due_setDue p _

end

/-! ### The rows at the end of an exchange (R136, R137) -/

theorem State.endExchange_answer (s : State) (f : Flight) (x : Answer) : s.endExchange f (some x) =
    (((s.replied f (some x)).answerTaken f x).reportProbe f).dueAfterExchange f.port := rfl

theorem State.endExchange_miss (s : State) (f : Flight) : s.endExchange f none =
    (((s.replied f none).missTaken f.port).reportProbe f).dueAfterExchange f.port := rfl

theorem exec_exchangeMiss (h : s.flight = some f) (hr : f.request ≠ .resetDevice) :
    exec .exchangeMiss s = .next ((s.endExchange f none).whole s) := by
  have e : s.missed = s.endExchange f none := by
    rw [State.missed, h]
    exact if_neg hr
  show eventRow State.missed s = _
  rw [eventRow, e]

theorem exec_of_answered {i : Instr} {r : Request} {frame : List Byte}
    (hi : exec i s = eventRow (fun s => s.answered r frame) s) (h : s.flight = some f) (hr : f.request = r) :
    exec i s = .next ((s.endExchange f (answerOf f.port r frame)).whole s) := by
  have e : s.answered r frame = s.endExchange f (answerOf f.port r frame) := by
    rw [State.answered, h]
    exact if_pos hr
  rw [hi, eventRow, e]

theorem State.reportProbe_of_ne (h : f.request ≠ .probe) : s.reportProbe f = s := if_neg h

theorem edited_endExchange (s : State) (f : Flight) (a : Option Answer) :
    Edited .noSupply (s.replied f a) (s.endExchange f a) := by
  cases a with
  | none =>
    rw [State.endExchange_miss]
    exact (((edited_missTaken _ _).mono (Scope.at_within_noSupply _)).trans
      (edited_reportProbe _ f trivial)).trans (edited_dueAfterExchange _ _ trivial)
  | some x =>
    rw [State.endExchange_answer]
    exact ((edited_answerTaken _ f x).trans (edited_reportProbe _ f trivial)).trans
      (edited_dueAfterExchange _ _ trivial)

/-- The end of an exchange that is no answered POLL concerns the device's station, the ports and the counter. -/
theorem edited_endExchange_station (s : State) (f : Flight) (a : Option Answer) (h : a = none ∨ f.request ≠ .poll) :
    Edited (.exchange (stationOf f.port)) (s.replied f a) (s.endExchange f a) := by
  cases a with
  | none =>
    rw [State.endExchange_miss]
    exact (((edited_missTaken _ _).mono (Scope.at_within_exchange _)).trans
      (edited_reportProbe _ f trivial)).trans (edited_dueAfterExchange _ _ trivial)
  | some x =>
    rw [State.endExchange_answer]
    exact ((edited_answerTaken_exchange _ f x (h.resolve_left nofun)).trans (edited_reportProbe _ f trivial)).trans
      (edited_dueAfterExchange _ _ trivial)

theorem State.sameStore_replied (s : State) (f : Flight) (a : Option Answer) : SameStore s (s.replied f a) := by
  rw [s.replied_eq f a]
  exact ⟨rfl, rfl, rfl, rfl, rfl, rfl⟩

theorem State.replied_flight (s : State) (f : Flight) (a : Option Answer) : (s.replied f a).flight = none := by
  unfold State.replied State.directReply
  split <;> rfl

/-- What the end of an exchange leaves, whatever its outcome. -/
theorem exchangeFrame (s : State) (f : Flight) (a : Option Answer) :
    ((s.endExchange f a).whole s).flight = none ∧ ((s.endExchange f a).whole s).supplies = s.supplies
      ∧ ((s.endExchange f a).whole s).tick = s.tick ∧ SameStore s ((s.endExchange f a).whole s) := by
  have e := edited_endExchange s f a
  refine ⟨?_, ?_, ?_, ?_⟩
  · rw [State.whole_flight, e.untouched.flight, State.replied_flight]
  · rw [State.whole_supplies, supplies_eq_of_supply fun y => e.supply_eq not_false, State.replied_supplies]
  · rw [State.whole_tick, e.untouched.tick, State.replied_tick]
  · exact (s.sameStore_replied f a).trans (e.untouched.sameStore.trans (State.sameStore_whole _ s))

theorem exchangeFrame_session (s : State) (f : Flight) (a : Option Answer) (h : a = none ∨ f.request ≠ .poll)
    {y : Station} (hy : y ≠ stationOf f.port) : ((s.endExchange f a).whole s).session y = s.session y := by
  rw [State.whole_session, (edited_endExchange_station s f a h).session_eq hy, State.replied_session]

/-! ### Misses (R111) -/

/-- The state as the port manager leaves it, before the probe is reported and the due tick placed. -/
def State.outcome (s : State) (f : Flight) : Option Answer → State
  | some x => (s.replied f (some x)).answerTaken f x
  | none => (s.replied f none).missTaken f.port

theorem State.endExchange_eq (s : State) (f : Flight) (a : Option Answer) :
    s.endExchange f a = ((s.outcome f a).reportProbe f).dueAfterExchange f.port := by
  cases a with
  | none => rfl
  | some x => rfl

theorem edited_reportProbe_only (s : State) (f : Flight) : Edited .counterOnly s (s.reportProbe f) :=
  edited_reportProbe s f trivial

theorem State.endExchange_device (s : State) (f : Flight) (a : Option Answer) (x : Port) :
    (s.endExchange f a).device x = (s.outcome f a).device x := by
  obtain ⟨n, e⟩ := ((s.outcome f a).reportProbe f).dueAfterExchange_spec f.port
  rw [State.endExchange_eq, ← (edited_reportProbe_only (s.outcome f a) f).device_eq not_false, e]
  rfl

theorem State.endExchange_owes (s : State) (f : Flight) (a : Option Answer) (x : Port) :
    (s.endExchange f a).owes x = (s.outcome f a).owes x := by
  obtain ⟨n, e⟩ := ((s.outcome f a).reportProbe f).dueAfterExchange_spec f.port
  rw [State.endExchange_eq, ← (edited_reportProbe_only (s.outcome f a) f).owes_eq not_false, e]
  rfl

theorem State.endExchange_deadlineOf (s : State) (f : Flight) (a : Option Answer) {o : Owner} (h : o ≠ .counter)
    (k : DeadlineKind) : (s.endExchange f a).deadlineOf o k = (s.outcome f a).deadlineOf o k := by
  have out : ¬Scope.counterOnly.owner o := by cases o <;> simp_all [Scope.counterOnly, Scope.owner]
  obtain ⟨n, e⟩ := ((s.outcome f a).reportProbe f).dueAfterExchange_spec f.port
  rw [State.endExchange_eq, ← (edited_reportProbe_only (s.outcome f a) f).deadlineOf_eq out, e]
  rfl

theorem State.missTaken_unmissed (h : (s.device p).state = .absent ∨ (s.device p).state = .restarting
    ∨ (s.device p).state = .held ∨ (s.device p).state = .unpowered) : s.missTaken p = s := by
  unfold State.missTaken
  rcases h with h | h | h | h <;> rw [h]

theorem State.missTaken_joining (h : (s.device p).state = .joining) : s.missTaken p = s.joinMissed p := by
  unfold State.missTaken
  rw [h]

theorem State.missTaken_joined (h : (s.device p).state = .ready ∨ (s.device p).state = .engaged
    ∨ (s.device p).state = .dozing) : s.missTaken p = s.joinedMiss p := by
  unfold State.missTaken
  rcases h with h | h | h <;> rw [h]

theorem State.joinMissed_device (s : State) (p : Port) :
    (s.joinMissed p).device p = { s.device p with identity := none, status := none, state := .absent } := by
  rw [State.joinMissed, State.changePort_device, State.modifyDevice_eq, State.device_setDevice]

theorem State.joinedMiss_counted (h : (s.device p).missRun < 2) : s.joinedMiss p =
    s.setDevice p { s.device p with missRun := (s.device p).missRun + 1 } := if_pos (Nat.add_lt_add_right h 1)

theorem State.joinedMiss_fault (h : 2 ≤ (s.device p).missRun) : s.joinedMiss p = s.deviceFault p .misses :=
  if_neg (Nat.not_lt.2 (Nat.add_le_add_right h 1))

/-- Settles O42. -/
theorem exchangesEndWithoutAnAnswer : Obligations.ExchangesEndWithoutAnAnswer := by
  refine ⟨fun s f h hr => ⟨?_, fun restarting waited => ?_⟩, fun s f h hr => ?_, fun s f frame h bad => ?_⟩
  · have e : s.resetSent = ({ s with flight := none } : State).dueAfterExchange f.port := by
      rw [State.resetSent, h]
      exact if_pos hr
    show eventRow State.resetSent s = _
    rw [eventRow_of_same _ _ (by rw [e]; exact ((edited_dueAfterExchange (A := .ports) _ _ trivial).counter_eq not_false).1), e]
  · have free : (({ s with flight := none } : State).device f.port).state = .restarting := restarting
    have g := State.dueAfterExchange_next ({ s with flight := none } : State) f.port (by rw [free]; rfl)
      (by rw [free]; decide) waited
    rw [free] at g
    exact g
  · obtain ⟨flight, supplies, tick, store⟩ := exchangeFrame s f none
    have device : (s.replied f none).device f.port = s.device f.port := by simp
    have settings : (s.replied f none).settings = s.settings := by simp
    have now : (s.replied f none).tick = s.tick := by simp
    refine ⟨_, exec_exchangeMiss h hr, flight, fun d => ?_, fun d => ?_, fun d few => ?_, fun d third => ?_,
      fun y hy => exchangeFrame_session s f none (.inl rfl) hy, supplies, tick, store⟩
    · rw [State.whole_device, State.endExchange_device, State.outcome, State.missTaken_unmissed (by rwa [device]), device]
    · rw [State.whole_device, State.endExchange_device, State.outcome, State.missTaken_joining (by rwa [device]),
        State.joinMissed_device, device]
    · rw [State.whole_device, State.endExchange_device, State.outcome, State.missTaken_joined (by rwa [device]),
        State.joinedMiss_counted (by rwa [device]), State.device_setDevice, device]
    · have fault := State.deviceFault_spec (s := s.replied f none) (p := f.port) .misses
      rw [device, settings, now] at fault
      rw [State.whole_device, State.endExchange_device, State.whole_owes, State.endExchange_owes,
        State.whole_deadlineOf _ _ _ _ (by simp), State.endExchange_deadlineOf _ _ _ (by simp), State.outcome,
        State.missTaken_joined (by rwa [device]), State.joinedMiss_fault (by rwa [device])]
      exact fault
  · refine ⟨fun hr => ?_, fun hr => ?_, fun hr => ?_, fun hr => ?_, fun hr => ?_⟩
    all_goals rw [exec_exchangeMiss h (by rw [hr]; decide), exec_of_answered rfl h hr, ← hr, bad]

end Sys2Proof.Machine
end

section
/-! PROOFS. The answers to PROBE, IDENTIFY, CONFIGURE and DIAG, and a quiet POLL (R107 to R111, R115, R126, R138, R146). -/

namespace Sys2Proof.Machine

variable {s : State} {st : Station} {p : Port} {f : Flight} {a : Answer}

/-! ### An outcome that concerns its device alone -/

theorem State.endExchange_of_ne (s : State) {f : Flight} (h : f.request ≠ .probe) (a : Option Answer) :
    s.endExchange f a = (s.outcome f a).dueAfterExchange f.port := by
  rw [State.endExchange_eq, State.reportProbe_of_ne h]

theorem edited_dueAfterExchange_only (s : State) (p : Port) : Edited (.device p) s (s.dueAfterExchange p) :=
  edited_dueAfterExchange s p rfl

/-- What an exchange leaves whose outcome concerns its device alone. -/
theorem deviceExchangeFrame {s : State} {f : Flight} {a : Option Answer} (h : f.request ≠ .probe)
    (e : Edited (.device f.port) (s.replied f a) (s.outcome f a)) :
    (s.endExchange f a).whole s = (s.endExchange f a).beginNext
      ∧ (∀ y, y ≠ f.port → ((s.endExchange f a).whole s).device y = s.device y)
      ∧ ((s.endExchange f a).whole s).sessions = s.sessions
      ∧ ((s.endExchange f a).whole s).deadlines = (s.outcome f a).deadlines
      ∧ ((s.endExchange f a).whole s).counter = s.counter := by
  have all := e.trans (edited_dueAfterExchange_only _ f.port)
  rw [← s.endExchange_of_ne h a] at all
  have counter : (s.endExchange f a).counter = s.counter := by
    rw [(all.counter_eq not_false).1, State.replied_counter]
  have whole := State.whole_of_same (s.endExchange f a) s counter
  refine ⟨whole, fun y hy => ?_, ?_, ?_, ?_⟩
  · rw [State.whole_device, all.device_eq hy, State.replied_device]
  · rw [State.whole_sessions, sessions_eq_of_session fun y => all.session_eq not_false, State.replied_sessions]
  · rw [whole, State.beginNext_deadlines, s.endExchange_of_ne h a]
    obtain ⟨n, g⟩ := (s.outcome f a).dueAfterExchange_spec f.port
    rw [g]
  · rw [whole, State.beginNext_counter, counter]

/-! ### IDENTIFY answered (R109) -/

theorem State.identified_expected {d : DeviceStatus} {i : Identity} (h : i.kind = (kindOf p).code) :
    s.identified p d i = ((s.setDevice p { s.device p with status := some d, identity := some i.stored }).setOwed p
      (some .configure)).dueNow p := if_pos h

theorem State.identified_other {d : DeviceStatus} {i : Identity} (h : i.kind ≠ (kindOf p).code) :
    s.identified p d i = (s.setDevice p { s.device p with status := some d, identity := some i.stored }).hold p
      .wrongKind .wrongKind := if_neg h

theorem State.answerTaken_identify {i : Identity} (hj : (s.device f.port).state = .joining)
    (hr : f.request = .identify) (hc : a.contents = .identity i) :
    s.answerTaken f a = s.identified f.port a.status i := by
  unfold State.answerTaken
  simp only [hj, hr, hc]

/-- Settles O44. -/
theorem identifyAnswerIsJudged : Obligations.IdentifyAnswerIsJudged := by
  intro s f frame a i h hr good hc hj
  have run := exec_of_answered (s := s) (i := .identifyAnswer frame) rfl h hr
  rw [good] at run
  have ne : f.request ≠ .probe := by rw [hr]; decide
  have device : (s.replied f (some a)).device f.port = s.device f.port := by simp
  have outcome : s.outcome f (some a) = (s.replied f (some a)).identified f.port a.status i :=
    State.answerTaken_identify (by rwa [device]) hr hc
  have edit : Edited (.device f.port) (s.replied f (some a)) (s.outcome f (some a)) := by
    rw [outcome]
    exact edited_identified _ _ _ _ rfl
  obtain ⟨flight, supplies, tick, store⟩ := exchangeFrame s f (some a)
  obtain ⟨-, others, sessions, deadlines, counter⟩ := deviceExchangeFrame ne edit
  refine ⟨_, run, flight, fun kind => ?_, fun kind => ?_, others, sessions, supplies, deadlines.trans ?_, counter, tick,
    store⟩
  · have made := outcome.trans (State.identified_expected kind)
    refine ⟨?_, ?_, ?_⟩
    · rw [State.whole_device, State.endExchange_device, made, State.dueNow_device, State.setOwed_device,
        State.device_setDevice, device]
      rfl
    · rw [State.whole_owes, State.endExchange_owes, made, State.dueNow_owes, State.owes_setOwed]
    · rw [State.whole_waited, s.endExchange_of_ne ne, made]
      refine State.dueAfterExchange_waited _ _ ?_ (.inr (State.waited_dueNow _ _))
      rw [State.dueNow_device, State.setOwed_device, State.device_setDevice]
      show (((s.replied f (some a)).device f.port).state).addressed = true
      rw [device, hj]
      rfl
  · have made := outcome.trans (State.identified_other kind)
    refine ⟨?_, ?_, ?_⟩
    · rw [State.whole_device, State.endExchange_device, made, State.hold_device, State.device_setDevice, device]
      rfl
    · rw [State.whole_owes, State.endExchange_owes, made, State.hold_owes]
    · rw [State.whole_due, s.endExchange_of_ne ne, made]
      exact State.dueAfterExchange_of_unaddressed _ _ (by rw [State.hold_device]; rfl)
  · by_cases kind : i.kind = (kindOf f.port).code
    · rw [outcome, State.identified_expected kind, State.dueNow_deadlines]
      exact State.replied_deadlines _ _ _
    · rw [outcome, State.identified_other kind, State.hold_deadlines]
      exact State.replied_deadlines _ _ _

/-! ### A quiet POLL (R107, R126, R138) -/

theorem State.setDevice_self (s : State) (p : Port) : s.setDevice p (s.device p) = s := by
  simp [State.setDevice, State.device]

theorem State.takeBatch_nil (s : State) (p : Port) (batch : Bool) :
    s.takeBatch p batch [] = s.setDevice p { s.device p with batchToggle := batch } := by
  unfold State.takeBatch
  split
  · rename_i h
    rw [h]
    exact (s.setDevice_self p).symm
  · rfl

/-- A device's record once a good POLL answer with no event was taken. -/
def Device.polled (d : Device) (a : Answer) : Device :=
  { d with status := some a.status, missRun := 0, batchToggle := a.batch }

/-- The state once the status and the batch of a POLL answer with no event were taken. -/
theorem State.recordStatus_takeBatch_nil (s : State) (p : Port) (a : Answer) :
    (s.recordStatus p a.status).takeBatch p a.batch [] = s.setDevice p ((s.device p).polled a) := by
  rw [State.takeBatch_nil, State.recordStatus, State.modifyDevice_eq, State.device_setDevice, State.setDevice_setDevice]
  rfl

theorem State.answerTaken_poll (hj : (s.device f.port).state = .ready ∨ (s.device f.port).state = .engaged
    ∨ (s.device f.port).state = .dozing) (hr : f.request = .poll) :
    s.answerTaken f a = s.takePoll f.port f.carried.isSome a := by
  unfold State.answerTaken
  rcases hj with hj | hj | hj <;> simp only [hj, hr, if_true]

theorem State.statusToSession_of_phase {d : DeviceStatus} (h : (s.session (stationOf p)).phase ≠ some .waitingClear) :
    s.statusToSession p d = s := if_neg fun c => h c.2

theorem State.statusChecks_quiet {d : DeviceStatus} (h : (s.session (stationOf p)).phase ≠ some .waitingClear)
    (agree : (s.device p).dozeDisagrees d = false) : s.statusChecks p d = s := by
  have doze : s.dozeCheck p d = s := if_neg (by simp [agree])
  rw [State.statusChecks, State.statusToSession_of_phase h, doze, ite_self]

theorem State.judgeTaken_uncarried (taken : Bool) : s.judgeTaken p false taken = s := if_neg fun c => by cases c.2.1

/-- A quiet POLL answer: the record, and the due tick with more events to come. -/
theorem State.takePoll_quiet (hc : a.contents = .events []) (agree : (s.device p).dozeDisagrees a.status = false)
    (h : (s.session (stationOf p)).phase ≠ some .waitingClear) (hj : (s.device p).state.joined = true) :
    s.takePoll p false a = if a.more then (s.setDevice p ((s.device p).polled a)).dueNow p
      else s.setDevice p ((s.device p).polled a) := by
  have e : ((s.recordStatus p a.status).takeBatch p a.batch a.contents.eventList).judgeTaken p false a.taken =
      s.setDevice p ((s.device p).polled a) := by
    rw [State.judgeTaken_uncarried, hc]
    exact s.recordStatus_takeBatch_nil p a
  have g : (s.setDevice p ((s.device p).polled a)).statusChecks p a.status = s.setDevice p ((s.device p).polled a) :=
    State.statusChecks_quiet h (by rw [State.device_setDevice]; exact agree)
  have joined : ((s.setDevice p ((s.device p).polled a)).device p).state.joined = true := by
    rw [State.device_setDevice]
    exact hj
  unfold State.takePoll
  dsimp only
  rw [e, g, joined, Bool.and_true]

theorem PortState.joined_iff {x : PortState} : x.joined = true ↔ x = .ready ∨ x = .engaged ∨ x = .dozing := by
  cases x <;> simp [PortState.joined]

theorem PortState.addressed_of_joined {x : PortState} (h : x.joined = true) : x.addressed = true ∧ x ≠ .joining := by
  rcases PortState.joined_iff.1 h with h | h | h <;> rw [h] <;> decide

/-- Settles O46. -/
theorem quietPollRecordsTheStatus : Obligations.QuietPollRecordsTheStatus := by
  intro s f frame a h hr carried good hc d hj agree phase
  have run := exec_of_answered (s := s) (i := .pollAnswer frame) rfl h hr
  rw [good] at run
  have ne : f.request ≠ .probe := by rw [hr]; decide
  have device : (s.replied f (some a)).device f.port = s.device f.port := by simp
  have joined : (s.device f.port).state.joined = true := PortState.joined_iff.2 hj
  obtain ⟨addressed, notJoining⟩ := PortState.addressed_of_joined joined
  have outcome : s.outcome f (some a) =
      if a.more then ((s.replied f (some a)).setDevice f.port (d.polled a)).dueNow f.port
      else (s.replied f (some a)).setDevice f.port (d.polled a) := by
    have taken : s.outcome f (some a) = (s.replied f (some a)).takePoll f.port false a := by
      rw [State.outcome, State.answerTaken_poll (by rwa [device]) hr, carried]
      rfl
    rw [taken, State.takePoll_quiet hc (by rwa [device]) (by rwa [State.replied_session]) (by rwa [device]), device]
  have edit : Edited (.device f.port) (s.replied f (some a)) (s.outcome f (some a)) := by
    have record : Edited (.device f.port) (s.replied f (some a)) ((s.replied f (some a)).setDevice f.port (d.polled a)) :=
      .device _ _ .refl rfl (.inl (by rw [device]; exact le_rfl))
    rw [outcome]
    split
    · exact record.trans (edited_dueNow _ _ rfl)
    · exact record
  have result : (s.outcome f (some a)).device f.port = d.polled a := by
    rw [outcome]
    split
    · rw [State.dueNow_device, State.device_setDevice]
    · rw [State.device_setDevice]
  have state : ((s.outcome f (some a)).device f.port).state = d.state := by rw [result]; rfl
  obtain ⟨flight, supplies, tick, store⟩ := exchangeFrame s f (some a)
  obtain ⟨-, others, sessions, deadlines, counter⟩ := deviceExchangeFrame ne edit
  refine ⟨_, run, flight, ?_, fun more => ?_, fun noMore waited => ?_, others, sessions, supplies, deadlines.trans ?_,
    counter, tick, store⟩
  · rw [State.whole_device, State.endExchange_device, result]
    rfl
  · rw [State.whole_waited, s.endExchange_of_ne ne]
    refine State.dueAfterExchange_waited _ _ (by rwa [state]) (.inr ?_)
    rw [outcome, if_pos more]
    exact State.waited_dueNow _ _
  · have now : (s.outcome f (some a)).tick = s.tick := by rw [edit.untouched.tick, State.replied_tick]
    have undue : (s.outcome f (some a)).waited f.port = none := by
      rw [outcome, if_neg (by simp [noMore])]
      exact (s.replied_waited f (some a) f.port).trans waited
    rw [State.whole_due, s.endExchange_of_ne ne, State.dueAfterExchange_next _ _ (by rwa [state]) (by rwa [state]) undue,
      state, now]
    rcases hj with e | e | e <;> rw [e] <;> rfl
  · rw [outcome]
    split
    · rw [State.dueNow_deadlines, State.setDevice_deadlines, State.replied_deadlines]
    · rw [State.setDevice_deadlines, State.replied_deadlines]

end Sys2Proof.Machine
end

section
/-! PROOFS. A device joins: PROBE answered, with the wake it may bring (R108, R115, R165, R170), and DIAG answered (R146). -/

namespace Sys2Proof.Machine

variable {s : State} {st : Station} {p : Port} {f : Flight} {a : Answer} {d : DeviceStatus}

/-! ### The awaiting-probe set (R165) -/

theorem State.leaveAwaiting_of_out (h : s.awaiting[p.val] = false) : s.leaveAwaiting p = s := if_neg (by simp [h])

/-- Outside STARTING the set alone changes. -/
theorem State.leaveAwaiting_spec (h : s.counter ≠ .starting) : ∃ x, s.leaveAwaiting p = { s with awaiting := x } := by
  unfold State.leaveAwaiting State.openIfProbed
  split
  · exact ⟨_, if_neg fun c => h c.1⟩
  · exact ⟨_, rfl⟩

theorem State.leaveAwaiting_awaiting : (s.leaveAwaiting p).awaiting[p.val] = false := by
  unfold State.leaveAwaiting State.openIfProbed
  split
  · split
    · simp [State.openFromStarting, State.clearAwaiting]
    · simp
  · simp_all

theorem edited_leaveAwaiting_only (s : State) (p : Port) : Edited .counterOnly s (s.leaveAwaiting p) :=
  edited_leaveAwaiting s p trivial

/-! ### The wake by a join (R170) -/

/-- The counter and every device but one. -/
def Scope.otherPorts (p : Port) : Scope := ⟨fun _ => False, fun x => x ≠ p, fun _ => False, True⟩

theorem Scope.counterOnly_within_otherPorts (p : Port) : Scope.counterOnly.Within (.otherPorts p) :=
  ⟨fun _ h => h, fun _ h => h.elim, fun _ h => h, fun h => h⟩

/-- A wake queues nothing at a JOINING device. -/
theorem edited_wakeDevices_of_joining (hj : (s.device p).state = .joining) :
    Edited (.otherPorts p) s s.wakeDevices := by
  refine State.forPorts_induct (P := fun u => Edited (.otherPorts p) s u) s .refl fun x u e => ?_
  by_cases h : x = p
  · have same : (u.device p).state = .joining := by rw [e.device_eq (not_not_intro rfl), hj]
    simp only [h, same, reduceCtorEq, false_and, or_self, if_false]
    exact e
  · exact e.trans (edited_ite (edited_queueCommand u x _ h) .refl)

theorem State.offerWake_taken {k : WakeKind} (h : s.counter = .lull) (g : s.wakeMask[st.val].admits k = true) :
    s.offerWake st k = s.wake ⟨k, some st⟩ := if_pos ⟨h, g⟩

theorem State.offerWake_refused {k : WakeKind} (h : s.counter ≠ .lull ∨ s.wakeMask[st.val].admits k = false) :
    s.offerWake st k = s := if_neg fun c => h.elim (fun g => g c.1) fun g => by simp [g] at c

theorem edited_wake_of_joining (cause : WakeCause) (hj : (s.device p).state = .joining) :
    Edited (.otherPorts p) s (s.wake cause) := by
  have woken : Edited (.otherPorts p) s (s.enterWaking cause .woken) :=
    (edited_enterWaking s cause .woken trivial)
  exact woken.trans (edited_wakeDevices_of_joining hj)

theorem edited_offerWake_of_joining (st : Station) (k : WakeKind) (hj : (s.device p).state = .joining) :
    Edited (.otherPorts p) s (s.offerWake st k) := edited_ite (edited_wake_of_joining _ hj) .refl

/-! ### The entry to JOINING (R108) -/

/-- A device that starts to join, before the counter hears of it. -/
def State.toJoining (s : State) (p : Port) (d : DeviceStatus) : State :=
  (((s.modifyDevice p fun x => { x with missRun := 0, status := some d }).changePort p .joining .probed).setOwed p
    (some .identify)).dueNow p

theorem State.enterJoining_eq (s : State) (p : Port) (d : DeviceStatus) : s.enterJoining p d =
    (if (s.device p).state == .absent then (s.toJoining p d).offerWake (stationOf p) .deviceJoin
      else s.toJoining p d).leaveAwaiting p := rfl

theorem State.toJoining_device : (s.toJoining p d).device p =
    { s.device p with state := .joining, missRun := 0, status := some d } := by
  rw [State.toJoining, State.dueNow_device, State.setOwed_device, State.changePort_device, State.modifyDevice_eq,
    State.device_setDevice]

theorem State.toJoining_owes : (s.toJoining p d).owes p = some .identify := by
  rw [State.toJoining, State.dueNow_owes, State.owes_setOwed]

theorem State.toJoining_waited : ((s.toJoining p d).waited p).isSome = true := State.waited_dueNow _ p

theorem edited_toJoining (s : State) (p : Port) (d : DeviceStatus) : Edited (.device p) s (s.toJoining p d) :=
  .trans (.owed p _ ((edited_modifyDevice s p _ rfl le_rfl).trans (edited_changePort _ p _ _ rfl)) rfl)
    (edited_dueNow _ _ rfl)

theorem State.toJoining_deadlines : (s.toJoining p d).deadlines = s.deadlines := by
  simp [State.toJoining, State.modifyDevice_eq]

theorem State.toJoining_wakeMask : (s.toJoining p d).wakeMask = s.wakeMask :=
  (edited_toJoining s p d).untouched.wakeMask

/-- What follows the entry to JOINING leaves the device. -/
theorem edited_enterJoining_after (s : State) (p : Port) (d : DeviceStatus) :
    Edited (.otherPorts p) (s.toJoining p d) (s.enterJoining p d) := by
  have joining : ((s.toJoining p d).device p).state = .joining := by rw [State.toJoining_device]
  rw [State.enterJoining_eq]
  exact (edited_ite (edited_offerWake_of_joining _ _ joining) .refl).trans
    ((edited_leaveAwaiting_only _ p).mono (Scope.counterOnly_within_otherPorts p))

/-- A join that brings no wake changes, outside STARTING, the device and the set alone. -/
theorem State.enterJoining_quiet (h : s.counter ≠ .starting) (quiet : (s.device p).state ≠ .absent ∨ s.counter ≠ .lull
    ∨ s.wakeMask[(stationOf p).val].admits .deviceJoin = false) :
    ∃ x, s.enterJoining p d = { s.toJoining p d with awaiting := x } := by
  have counter : (s.toJoining p d).counter = s.counter := ((edited_toJoining s p d).counter_eq not_false).1
  have e : (if (s.device p).state == .absent then (s.toJoining p d).offerWake (stationOf p) .deviceJoin
      else s.toJoining p d) = s.toJoining p d := by
    split
    · rename_i absent
      refine State.offerWake_refused ?_
      rw [counter, State.toJoining_wakeMask]
      exact quiet.resolve_left (not_not_intro (by simpa using absent))
    · rfl
  rw [State.enterJoining_eq, e]
  exact State.leaveAwaiting_spec (by rwa [counter])

theorem Wakes.withAwaiting {cause : WakeCause} {t : State} (h : Wakes cause s t) (x : Vector Bool 16) :
    Wakes cause s { t with awaiting := x } :=
  ⟨h.counter, h.wakeCause, h.supervision, h.settle, h.sessions, h.tick, h.store⟩

/-- A join that wakes the counter. -/
theorem State.enterJoining_wakes (absent : (s.device p).state = .absent) (h : s.counter = .lull)
    (admits : s.wakeMask[(stationOf p).val].admits .deviceJoin = true) :
    Wakes ⟨.deviceJoin, some (stationOf p)⟩ (s.toJoining p d) (s.enterJoining p d) := by
  have counter : (s.toJoining p d).counter = s.counter := ((edited_toJoining s p d).counter_eq not_false).1
  have e : s.enterJoining p d = ((s.toJoining p d).wake ⟨.deviceJoin, some (stationOf p)⟩).leaveAwaiting p := by
    rw [State.enterJoining_eq, if_pos (by simp [absent]), State.offerWake_taken]
    · rw [counter, h]
    · rwa [State.toJoining_wakeMask]
  have woken : Wakes ⟨.deviceJoin, some (stationOf p)⟩ (s.toJoining p d)
      ((s.toJoining p d).wake ⟨.deviceJoin, some (stationOf p)⟩) :=
    ((s.toJoining p d).wakes _ .woken).queued (edited_wakeDevices_only _)
  obtain ⟨x, left⟩ := State.leaveAwaiting_spec (p := p) (by rw [woken.counter]; decide)
  rw [e, left]
  exact woken.withAwaiting x

/-! ### The answer of a probed device -/

/-- The device's record as it joins, and what it is owed. -/
structure Joins (s t : State) (p : Port) (d : DeviceStatus) : Prop where
  device : t.device p = { s.device p with state := .joining, missRun := 0, status := some d }
  owes : t.owes p = some .identify
  waited : (t.waited p).isSome = true
  awaiting : t.awaiting[p.val] = false
  window : t.deadlineOf (.device p) .device = s.deadlineOf (.device p) .device
  sessions : t.sessions = s.sessions

theorem State.joins_enterJoining (s : State) (p : Port) (d : DeviceStatus) : Joins s (s.enterJoining p d) p d := by
  have after := edited_enterJoining_after s p d
  have before := edited_toJoining s p d
  refine ⟨?_, ?_, ?_, ?_, ?_, ?_⟩
  · rw [after.device_eq (not_not_intro rfl), State.toJoining_device]
  · rw [after.owes_eq (not_not_intro rfl), State.toJoining_owes]
  · rw [State.waited, after.due_eq (not_not_intro rfl)]
    exact State.toJoining_waited
  · rw [State.enterJoining_eq]
    exact State.leaveAwaiting_awaiting
  · rw [after.deadlineOf_eq (o := .device p) (not_not_intro rfl), State.deadlineOf, State.toJoining_deadlines]
    rfl
  · rw [sessions_eq_of_session fun y => after.session_eq not_false,
      sessions_eq_of_session fun y => before.session_eq not_false]

/-- The state a probed device answers in: its restart window is over. -/
def State.windowOver (s : State) (p : Port) : State :=
  if (s.device p).state = .restarting then s.removeDeadline (.device p) .device else s

theorem State.windowOver_eq (s : State) (p : Port) :
    s.windowOver p = { s with deadlines := (s.windowOver p).deadlines } := by
  unfold State.windowOver
  split
  · rfl
  · rfl

theorem State.windowOver_window (h : (s.device p).state = .restarting) :
    (s.windowOver p).deadlineOf (.device p) .device = none := by
  rw [State.windowOver, if_pos h]
  exact s.deadlineOf_removeDeadline _ _

theorem State.answerTaken_probed (h : (s.device f.port).state = .absent ∨ (s.device f.port).state = .restarting)
    (a : Answer) : s.answerTaken f a = (s.windowOver f.port).enterJoining f.port a.status := by
  unfold State.answerTaken State.windowOver
  rcases h with h | h <;> simp only [h, reduceCtorEq, if_true, if_false, State.restartAnswered]

/-- The end of an exchange that a probed device answers. -/
theorem State.endExchange_probed {a : Answer}
    (h : (s.device f.port).state = .absent ∨ (s.device f.port).state = .restarting) : s.endExchange f (some a) =
      (((s.replied f (some a)).windowOver f.port).enterJoining f.port a.status).dueAfterExchange f.port := by
  have taken := State.answerTaken_probed (s := s.replied f (some a)) (by rwa [State.replied_device]) a
  rw [State.endExchange_answer, taken]
  congr 1
  unfold State.reportProbe
  split
  · exact State.leaveAwaiting_of_out (State.joins_enterJoining _ _ _).awaiting
  · rfl

theorem Joins.whole {t before : State} (h : Joins s t p d) : Joins s ((t.dueAfterExchange p).whole before) p d := by
  obtain ⟨n, e⟩ := t.dueAfterExchange_spec p
  have joining : (t.device p).state = .joining := by rw [h.device]
  refine ⟨?_, ?_, ?_, ?_, ?_, ?_⟩
  · rw [State.whole_device, e]
    exact h.device
  · rw [State.whole_owes, e]
    exact h.owes
  · rw [State.whole_waited]
    exact State.dueAfterExchange_waited _ _ (by rw [joining]; rfl) (.inl joining)
  · rw [State.whole_awaiting, e]
    exact h.awaiting
  · rw [State.whole_deadlineOf _ _ _ _ (by simp), e]
    exact h.window
  · rw [State.whole_sessions, e]
    exact h.sessions

/-- Settles O43. -/
theorem probeAnswerJoinsTheDevice : Obligations.ProbeAnswerJoinsTheDevice := by
  intro s f frame a h hr good hj
  have run := exec_of_answered (s := s) (i := .probeAnswer frame) rfl h hr
  rw [good] at run
  obtain ⟨flight, supplies, tick, store⟩ := exchangeFrame s f (some a)
  have exchange := State.endExchange_probed (a := a) hj
  generalize hv : (s.replied f (some a)).windowOver f.port = v at exchange
  have device : ∀ y, v.device y = s.device y := fun y => by rw [← hv, State.windowOver_eq]; exact s.replied_device f _ y
  have counter : v.counter = s.counter := by rw [← hv, State.windowOver_eq]; exact s.replied_counter f _
  have wakeMask : v.wakeMask = s.wakeMask := by rw [← hv, State.windowOver_eq]; exact s.replied_wakeMask f _
  have sessions : v.sessions = s.sessions := by rw [← hv, State.windowOver_eq]; exact s.replied_sessions f _
  have settings : v.settings = s.settings := by rw [← hv, State.windowOver_eq]; exact s.replied_settings f _
  have joins := (State.joins_enterJoining v f.port a.status).whole (before := s)
  rw [← exchange] at joins
  have quiet : s.counter ≠ .starting → ((s.device f.port).state ≠ .absent ∨ s.counter ≠ .lull
      ∨ s.wakeMask[(stationOf f.port).val].admits .deviceJoin = false) →
      ((s.endExchange f (some a)).whole s).counter = s.counter
        ∧ ∀ y, y ≠ f.port → ((s.endExchange f (some a)).whole s).device y = s.device y := fun g q => by
    have edit := edited_toJoining v f.port a.status
    obtain ⟨x, e⟩ := State.enterJoining_quiet (s := v) (p := f.port) (d := a.status) (by rwa [counter])
      (by rwa [device, counter, wakeMask])
    obtain ⟨n, after⟩ := (v.enterJoining f.port a.status).dueAfterExchange_spec f.port
    rw [e] at after
    rw [e, after] at exchange
    have same : (s.endExchange f (some a)).counter = s.counter := by
      rw [exchange, ← counter]
      exact (edit.counter_eq not_false).1
    refine ⟨?_, fun y hy => ?_⟩
    · rw [State.whole_of_same _ _ same, State.beginNext_counter, same]
    · rw [State.whole_device, exchange, ← device]
      exact edit.device_eq hy
  refine ⟨_, run, flight, ?_, joins.owes, joins.waited, joins.awaiting, fun restarting => ?_, fun lull absent admits => ?_,
    fun lull g => ?_, fun g g' => (quiet g' (.inr (.inl g))).1, ?_, supplies, tick, store⟩
  · rw [joins.device, device]
  · rw [joins.window, ← hv]
    exact State.windowOver_window (by rwa [State.replied_device])
  · have woken := State.enterJoining_wakes (s := v) (p := f.port) (d := a.status) (by rwa [device]) (by rwa [counter])
      (by rwa [wakeMask])
    have settled := (woken.queued (edited_dueAfterExchange _ f.port trivial)).whole (before := s) (by rw [lull]; decide)
    rw [← exchange] at settled
    have ticks : (v.toJoining f.port a.status).settleTicks = s.settleTicks := by
      rw [State.settleTicks, (edited_toJoining v f.port a.status).untouched.sameStore.1, settings, State.settleTicks]
    rw [ticks] at settled
    exact ⟨settled.2.1, settled.1⟩
  · have stays := quiet (by rw [lull]; decide) (g.imp (fun e => by rw [e]; decide) .inr)
    exact ⟨stays.1.trans lull, stays.2⟩
  · rw [joins.sessions, sessions]

/-! ### DIAG answered (R146) -/

theorem State.recordStatus_device (s : State) (p : Port) (d : DeviceStatus) :
    (s.recordStatus p d).device p = { s.device p with status := some d, missRun := 0 } := by
  rw [State.recordStatus, State.modifyDevice_eq, State.device_setDevice]

theorem State.answerTaken_diag_free {a : Answer} (hr : f.request = .diag)
    (h : (s.device f.port).state = .ready ∨ (s.device f.port).state = .dozing)
    (agree : (s.device f.port).dozeDisagrees a.status = false) :
    s.answerTaken f a = s.recordStatus f.port a.status := by
  have doze : (s.recordStatus f.port a.status).dozeCheck f.port a.status = s.recordStatus f.port a.status := by
    refine if_neg ?_
    rw [State.recordStatus_device]
    exact Bool.not_eq_true _ ▸ agree
  unfold State.answerTaken
  rcases h with h | h <;> simp only [h, hr, reduceCtorEq, if_false, doze]

theorem State.answerTaken_diag_joining {a : Answer} (hr : f.request = .diag) (h : (s.device f.port).state = .joining) :
    s.answerTaken f a = s.modifyDevice f.port fun d => { d with status := some a.status } := by
  unfold State.answerTaken
  simp only [h, hr]

theorem State.answerTaken_unmoved {a : Answer}
    (h : (s.device f.port).state = .held ∨ (s.device f.port).state = .unpowered) : s.answerTaken f a = s := by
  unfold State.answerTaken
  rcases h with h | h <;> simp only [h]

/-- Settles O52. -/
theorem diagAnswerRepliesWithItsPayload : Obligations.DiagAnswerRepliesWithItsPayload := by
  intro s f frame a q l h hr direct good hc d
  have run := exec_of_answered (s := s) (i := .diagAnswer frame) rfl h hr
  rw [good] at run
  obtain ⟨flight, supplies, tick, store⟩ := exchangeFrame s f (some a)
  have device : (s.replied f (some a)).device f.port = d := State.replied_device _ _ _ _
  have reply := State.mem_replied (s := s) (x := a) direct
  rw [hc] at reply
  refine ⟨_, run, flight, ?_, fun free agree => ?_, fun joining => ⟨?_, ?_⟩, fun restarting => ?_, fun out => ?_,
    fun y hy => exchangeFrame_session s f (some a) (.inr (by rw [hr]; decide)) hy, supplies, tick, store⟩
  · exact State.shows_whole _ _ rfl ((edited_endExchange s f (some a)).mem_outbound rfl reply)
  · rw [State.whole_device, State.endExchange_device, State.outcome,
      State.answerTaken_diag_free hr (by rwa [device]) (by rwa [device]), State.recordStatus_device, device]
  · rw [State.whole_device, State.endExchange_device, State.outcome, State.answerTaken_diag_joining hr (by rwa [device]),
      State.modifyDevice_eq, State.device_setDevice, device]
  · rw [State.whole_owes, State.endExchange_owes, State.outcome, State.answerTaken_diag_joining hr (by rwa [device])]
    exact s.replied_owes f (some a) f.port
  · have joins := (State.joins_enterJoining ((s.replied f (some a)).windowOver f.port) f.port a.status).whole (before := s)
    rw [← State.endExchange_probed (.inr restarting)] at joins
    refine ⟨?_, joins.owes, ?_⟩
    · rw [joins.device]
    · rw [joins.window]
      exact State.windowOver_window (by rwa [device])
  · rw [State.whole_device, State.endExchange_device, State.outcome, State.answerTaken_unmoved (by rwa [device]), device]

end Sys2Proof.Machine
end

section
/-! PROOFS. Joining completes (R110). -/

namespace Sys2Proof.Machine

variable {s : State} {p : Port} {d : Device} {q : Queued}

/-- A command of a class that neither is in carriage nor stands in the queue goes to its end (R123). -/
theorem Device.accept_appends (hc : d.inCarriage = false) (hq : ofClass q.command.cls d.queue = none) :
    (d.accept q).1 = { d with queue := d.queue ++ [q] } := by
  unfold Device.accept
  rw [if_neg (by simp [Device.carriesClass, hc]), hq]

theorem State.queueCommand_appends (hj : (s.device p).state.joined = true)
    (belongs : q.command.cls.belongs (kindOf p) = true) (hc : (s.device p).inCarriage = false)
    (hq : ofClass q.command.cls (s.device p).queue = none) :
    (s.queueCommand p q).device p = { s.device p with queue := (s.device p).queue ++ [q] } := by
  rw [State.queueCommand_device, if_pos (by simp [State.acceptsCommand, hj, belongs]), Device.accept_appends hc hq]

/-- A device's record as joining completes. -/
def Device.joinedAs (d : Device) (x : DeviceStatus) (dozed : Bool) : Device :=
  { d with
    status := some x
    batchToggle := false
    commandToggle := false
    missRun := 0
    state := if dozed then .dozing else .ready }

/-- A joined device before anything is queued at it: its clean period runs (R110). -/
def State.joinedUp (s : State) (p : Port) (x : DeviceStatus) (dozed : Bool) : State :=
  (((s.modifyDevice p fun d => { d with status := some x, batchToggle := false, commandToggle := false }).changePort p
    (if dozed then .dozing else .ready) .joined).modifyDevice p fun d => { d with missRun := 0 }).placeDeadline
      (.device p) .device Config.cleanPeriod

/-- The text queued at a device that joins: none at a reader. -/
def State.joinTexts (s : State) (p : Port) : List Queued :=
  if kindOf p = .keypad then [⟨.showText (s.joinText p), .ports⟩] else []

/-- The power command that mends a doze state. -/
def State.joinPower (s : State) (dozed : Bool) : List Queued :=
  if dozed ∧ s.counter ≠ .lull then [⟨.wake, .ports⟩]
  else if dozed = false ∧ s.counter = .lull then [⟨.doze, .ports⟩] else []

variable {x : DeviceStatus} {dozed : Bool}

theorem State.configured_eq : s.configured p x dozed =
    (if kindOf p = .keypad then
      (s.joinedUp p x dozed).queueCommand p ⟨.showText ((s.joinedUp p x dozed).joinText p), .ports⟩
    else s.joinedUp p x dozed).mendPower p dozed := rfl

theorem State.joinedUp_device : (s.joinedUp p x dozed).device p = (s.device p).joinedAs x dozed := by
  simp [State.joinedUp, State.placeDeadline, State.modifyDevice_eq, Device.joinedAs]

theorem State.joinedUp_same : (s.joinedUp p x dozed).counter = s.counter
    ∧ (s.joinedUp p x dozed).joinText p = s.joinText p := by
  simp [State.joinedUp, State.placeDeadline, State.modifyDevice_eq, State.joinText, State.idleText]

theorem State.joinedUp_window : (s.joinedUp p x dozed).deadlineOf (.device p) .device = some (ahead s.tick 600000) := by
  rw [State.joinedUp, State.deadlineOf_placeDeadline]
  simp [State.modifyDevice_eq, Config.cleanPeriod]

theorem State.mendPower_deadlineOf (o : Owner) (k : DeadlineKind) :
    (s.mendPower p dozed).deadlineOf o k = s.deadlineOf o k := by
  unfold State.mendPower
  split
  · rw [State.queueCommand_deadlineOf]
  · split
    · rw [State.queueCommand_deadlineOf]
    · rfl

theorem State.mendPower_device (hj : (s.device p).state.joined = true) (hc : (s.device p).inCarriage = false)
    (hq : ofClass .power (s.device p).queue = none) :
    (s.mendPower p dozed).device p = { s.device p with queue := (s.device p).queue ++ s.joinPower dozed } := by
  unfold State.mendPower State.joinPower
  split
  · exact State.queueCommand_appends hj rfl hc hq
  · split
    · exact State.queueCommand_appends hj rfl hc hq
    · simp

theorem State.configured_window :
    (s.configured p x dozed).deadlineOf (.device p) .device = some (ahead s.tick 600000) :=
  by
  rw [State.configured_eq, State.mendPower_deadlineOf]
  split
  · rw [State.queueCommand_deadlineOf, State.joinedUp_window]
  · exact State.joinedUp_window

/-- What a device is as it joins with nothing queued. -/
theorem State.configured_device (hq : (s.device p).queue = []) (hc : (s.device p).inCarriage = false) :
    (s.configured p x dozed).device p =
      { (s.device p).joinedAs x dozed with queue := s.joinTexts p ++ s.joinPower dozed } := by
  have joined : ((s.device p).joinedAs x dozed).state.joined = true := by
    cases dozed <;> rfl
  have shown : (if kindOf p = .keypad then
      (s.joinedUp p x dozed).queueCommand p ⟨.showText ((s.joinedUp p x dozed).joinText p), .ports⟩
    else s.joinedUp p x dozed).device p = { (s.device p).joinedAs x dozed with queue := s.joinTexts p } := by
    unfold State.joinTexts
    split
    · rename_i keypad
      rw [State.queueCommand_appends (by rw [State.joinedUp_device, joined]) (by rw [keypad]; rfl)
        (by rw [State.joinedUp_device]; exact hc) (by rw [State.joinedUp_device]; exact congrArg _ hq),
        State.joinedUp_device, State.joinedUp_same.2, show ((s.device p).joinedAs x dozed).queue = [] from hq]
      rfl
    · rw [State.joinedUp_device, ← hq]
      rfl
  have counter : (if kindOf p = .keypad then
      (s.joinedUp p x dozed).queueCommand p ⟨.showText ((s.joinedUp p x dozed).joinText p), .ports⟩
    else s.joinedUp p x dozed).counter = s.counter := by
    split
    · rw [State.queueCommand_counter, State.joinedUp_same.1]
    · exact State.joinedUp_same.1
  have noPower : ofClass .power (s.joinTexts p) = none := by
    unfold State.joinTexts
    split <;> rfl
  rw [State.configured_eq, State.mendPower_device (by rw [shown]; exact joined) (by rw [shown]; exact hc)
    (by rw [shown]; exact noPower), shown, State.joinPower, counter, State.joinPower]

theorem State.answerTaken_configure {f : Flight} {a : Answer} (hj : (s.device f.port).state = .joining)
    (hr : f.request = .configure) (owes : s.owes f.port = some .configure) :
    s.answerTaken f a = s.configured f.port a.status f.doze := by
  unfold State.answerTaken
  simp only [hj, hr, owes]

/-- Settles O45. -/
theorem configureAnswerCompletesJoining : Obligations.ConfigureAnswerCompletesJoining := by
  intro s f frame a h hr good hj owes hq hf hc text shown power
  have run := exec_of_answered (s := s) (i := .configureAnswer frame) rfl h hr
  rw [good] at run
  have device : (s.replied f (some a)).device f.port = s.device f.port := State.replied_device _ _ _ _
  have outcome : s.outcome f (some a) = (s.replied f (some a)).configured f.port a.status f.doze :=
    State.answerTaken_configure (by rwa [device]) hr (by rwa [State.replied_owes])
  have edit : Edited (.device f.port) (s.replied f (some a)) (s.outcome f (some a)) := by
    rw [outcome]
    exact edited_configured _ _ _ _ rfl
  obtain ⟨flight, supplies, tick, store⟩ := exchangeFrame s f (some a)
  obtain ⟨-, others, sessions, -, counter⟩ := deviceExchangeFrame (by rw [hr]; decide) edit
  have record : ((s.endExchange f (some a)).whole s).device f.port = { (s.device f.port).joinedAs a.status f.doze with
      queue := (s.replied f (some a)).joinTexts f.port ++ (s.replied f (some a)).joinPower f.doze } := by
    rw [State.whole_device, State.endExchange_device, outcome, State.configured_device (by rwa [device]) (by rwa [device]),
      device]
  refine ⟨_, run, flight, ?_, ?_, ?_, ?_, ?_, ?_, ?_, ?_, others, sessions, supplies, counter, tick, store⟩
  any_goals rw [record]; rfl
  · rw [record, List.map_append]
    congr 1
    · simp only [State.joinTexts, State.joinText, State.idleText, State.replied_counter, State.replied_closedText,
        State.replied_idleTexts, shown, text]
      split <;> rfl
    · simp only [State.joinPower, State.replied_counter, power]
      split
      · rfl
      · split <;> rfl
  · rw [State.whole_deadlineOf _ _ _ _ (by simp), State.endExchange_deadlineOf _ _ _ (by simp), outcome,
      State.configured_window, State.replied_tick]

end Sys2Proof.Machine
end

section
/-! PROOFS. A POLL answer with an event or a command (R126, R138 to R141). -/

namespace Sys2Proof.Machine

variable {s u : State} {st : Station} {p : Port} {f : Flight} {a : Answer} {e : Event}

/-! ### The state in which a POLL answer's event and command are taken -/

/-- The status, the miss run and the batch toggle of a good POLL answer recorded (R126, R138). -/
def State.heard (s : State) (f : Flight) (a : Answer) : State :=
  (s.replied f (some a)).setDevice f.port ((s.device f.port).polled a)

section
variable (s f a)

theorem State.heard_device : (s.heard f a).device f.port = (s.device f.port).polled a := State.device_setDevice _ _ _

theorem State.heard_device_of_ne {x : Port} (h : x ≠ f.port) : (s.heard f a).device x = s.device x :=
  (State.device_setDevice_of_ne _ h _).trans (s.replied_device f _ x)

@[simp] theorem State.heard_session (x : Station) : (s.heard f a).session x = s.session x := s.replied_session f _ x
@[simp] theorem State.heard_counter : (s.heard f a).counter = s.counter := s.replied_counter f _
@[simp] theorem State.heard_tick : (s.heard f a).tick = s.tick := s.replied_tick f _
@[simp] theorem State.heard_settings : (s.heard f a).settings = s.settings := s.replied_settings f _
@[simp] theorem State.heard_textOwed : (s.heard f a).textOwed = s.textOwed := s.replied_textOwed f _
@[simp] theorem State.heard_deadlineOf (o : Owner) (k : DeadlineKind) : (s.heard f a).deadlineOf o k = s.deadlineOf o k :=
  s.replied_deadlineOf f _ o k

theorem State.sameStore_heard : SameStore s (s.heard f a) := s.sameStore_replied f _

theorem State.heard_outbound : (s.heard f a).outbound = s.outbound
    ∨ ∃ q l, (s.heard f a).outbound = s.outbound ++ [.reply q 0x8B .done false l] := by
  show ((s.replied f (some a)).outbound = _ ∨ ∃ q l, (s.replied f (some a)).outbound = _)
  unfold State.replied State.directReply
  cases f.direct with
  | none => exact .inl rfl
  | some q => exact .inr ⟨q, _, rfl⟩

@[simp] theorem State.heard_outstanding (x : Station) : (s.heard f a).outstanding x = s.outstanding x := by
  have sending : (s.heard f a).sendingSuch (Item.isResultOf x) = s.sendingSuch (Item.isResultOf x) := by
    unfold State.sendingSuch
    rw [show (s.heard f a).sending = s.sending from s.replied_sending f _]
  rw [State.outstanding, sending, State.outstanding]
  rcases s.heard_outbound f a with h | ⟨q, l, h⟩
  · rw [h]
  · rw [h, List.any_append]
    simp [Item.isResultOf]

theorem State.heard_fresh {k : ItemKey} (h : ∀ x ∈ s.outbound, x.key ≠ some k) :
    ∀ x ∈ (s.heard f a).outbound, x.key ≠ some k := by
  intro x hx
  rcases s.heard_outbound f a with g | ⟨q, l, g⟩
  · rw [g] at hx
    exact h x hx
  · rw [g, List.mem_append, List.mem_singleton] at hx
    rcases hx with hx | hx
    · exact h x hx
    · rw [hx]
      simp [Item.key]

end

/-! ### The answer taken (R126) -/

/-- A device with more events to come is due at once (R139). -/
def State.moreDue (s : State) (p : Port) (a : Answer) : State :=
  if a.more && (s.device p).state.joined then s.dueNow p else s

theorem State.takePoll_eq (carried : Bool) : s.takePoll p carried a =
    (((((s.recordStatus p a.status).takeBatch p a.batch a.contents.eventList).judgeTaken p carried a.taken).statusChecks p
      a.status).moreDue p a) := rfl

theorem State.outcome_poll (hr : f.request = .poll) (hj : (s.device f.port).state.joined = true) :
    s.outcome f (some a) = (s.replied f (some a)).takePoll f.port f.carried.isSome a := by
  rw [State.outcome, State.answerTaken_poll (PortState.joined_iff.1 (by rwa [State.replied_device])) hr]

theorem State.takeBatch_new (new : a.batch ≠ (s.device p).batchToggle) :
    (s.recordStatus p a.status).takeBatch p a.batch [e] = (s.setDevice p ((s.device p).polled a)).takeEvent p e := by
  unfold State.takeBatch
  rw [if_neg (by rw [State.recordStatus_device]; exact new), State.recordStatus, State.modifyDevice_eq,
    State.modifyDevice_eq, State.device_setDevice, State.setDevice_setDevice]
  rfl

/-- A POLL answer with one event in a new batch, to a POLL that carried no command. -/
theorem State.outcome_of_event (hr : f.request = .poll) (hj : (s.device f.port).state.joined = true)
    (carried : f.carried = none) (hc : a.contents = .events [e]) (new : a.batch ≠ (s.device f.port).batchToggle) :
    s.outcome f (some a) = (((s.heard f a).takeEvent f.port e).statusChecks f.port a.status).moreDue f.port a := by
  have batch := State.takeBatch_new (s := s.replied f (some a)) (p := f.port) (a := a) (e := e)
    (by rwa [State.replied_device])
  rw [State.replied_device] at batch
  rw [State.outcome_poll hr hj, State.takePoll_eq, carried, hc, Contents.eventList, batch]
  exact congrArg (fun u : State => (u.statusChecks f.port a.status).moreDue f.port a) (State.judgeTaken_uncarried _)

/-- A POLL answer with no event, to a POLL that carried a command. -/
theorem State.outcome_of_command (hr : f.request = .poll) (hj : (s.device f.port).state.joined = true)
    (carried : f.carried.isSome = true) (hc : a.contents = .events []) (inCarriage : (s.device f.port).inCarriage = true) :
    s.outcome f (some a) = ((if a.taken then (s.heard f a).commandTaken f.port
      else (s.heard f a).deviceFault f.port .protocol).statusChecks f.port a.status).moreDue f.port a := by
  have batch := State.recordStatus_takeBatch_nil (s.replied f (some a)) f.port a
  rw [State.replied_device] at batch
  have judged : (s.heard f a).judgeTaken f.port true a.taken = if a.taken then (s.heard f a).commandTaken f.port
      else (s.heard f a).deviceFault f.port .protocol :=
    if_pos ⟨by rw [State.heard_device]; exact hj, rfl, by rw [State.heard_device]; exact inCarriage⟩
  rw [State.outcome_poll hr hj, State.takePoll_eq, carried, hc, Contents.eventList, batch, ← judged]
  rfl

/-! ### The checks on the status (R112, R126) -/

theorem State.statusToSession_spec (s : State) (p : Port) (d : DeviceStatus) : ∃ r o,
    s.statusToSession p d = { s with sessions := r, outbound := o } := by
  unfold State.statusToSession
  dsimp only
  split
  · split
    · split
      · exact ⟨_, _, State.noteProgress_eq _ _⟩
      · exact ⟨_, _, rfl⟩
    · exact ⟨_, _, rfl⟩
  · exact ⟨_, _, rfl⟩

/-- A status that agrees with the port state is told to the session alone. -/
theorem State.statusChecks_agree {d : DeviceStatus} (agree : (s.device p).dozeDisagrees d = false)
    (hj : (s.device p).state.joined = true) : s.statusChecks p d = s.statusToSession p d := by
  have device : (s.statusToSession p d).device p = s.device p := by
    obtain ⟨r, o, h⟩ := s.statusToSession_spec p d
    rw [h]
    rfl
  exact (if_pos hj).trans (if_neg (by rw [device, agree]; decide))

theorem State.statusChecks_unjoined {d : DeviceStatus} (hj : (s.device p).state.joined = false) :
    s.statusChecks p d = s := if_neg (by simp [hj])

theorem Device.dozeDisagrees_engaged {d : Device} {x : DeviceStatus} (h : d.state = .engaged) (awake : x.awake = true) :
    d.dozeDisagrees x = false := by simp [Device.dozeDisagrees, h, awake]

/-! ### The end of the exchange -/

/-- The exchange leaves a state, up to the due ticks. -/
def State.Leaves (s : State) (f : Flight) (a : Answer) (u : State) : Prop :=
  ∃ n, s.endExchange f (some a) = { u with nextDue := n }

theorem State.leaves_of_outcome (hr : f.request = .poll)
    (h : s.outcome f (some a) = (u.statusChecks f.port a.status).moreDue f.port a) :
    s.Leaves f a (u.statusChecks f.port a.status) := by
  obtain ⟨n, e⟩ := (s.outcome f (some a)).dueAfterExchange_spec f.port
  rw [← State.endExchange_of_ne s (by rw [hr]; decide), h] at e
  rw [State.Leaves, e]
  unfold State.moreDue
  split
  · exact ⟨n, by rw [State.dueNow_eq]⟩
  · exact ⟨n, rfl⟩

section Leaves

variable (h : s.Leaves f a u)
include h

theorem State.Leaves.session (x : Station) : ((s.endExchange f (some a)).whole s).session x = u.session x := by
  obtain ⟨n, e⟩ := h
  rw [State.whole_session, e]
  rfl

theorem State.Leaves.device (x : Port) : ((s.endExchange f (some a)).whole s).device x = u.device x := by
  obtain ⟨n, e⟩ := h
  rw [State.whole_device, e]
  rfl

theorem State.Leaves.owes (x : Port) : ((s.endExchange f (some a)).whole s).owes x = u.owes x := by
  obtain ⟨n, e⟩ := h
  rw [State.whole_owes, e]
  rfl

theorem State.Leaves.textOwed : ((s.endExchange f (some a)).whole s).textOwed = u.textOwed := by
  obtain ⟨n, e⟩ := h
  rw [State.whole_textOwed, e]

theorem State.Leaves.deadlineOf {o : Owner} (ho : o ≠ .counter) (k : DeadlineKind) :
    ((s.endExchange f (some a)).whole s).deadlineOf o k = u.deadlineOf o k := by
  obtain ⟨n, e⟩ := h
  rw [State.whole_deadlineOf _ _ _ _ (by simp [ho]), e]
  rfl

theorem State.Leaves.counter (same : u.counter = s.counter) : ((s.endExchange f (some a)).whole s).counter = s.counter :=
  by
  have left : (s.endExchange f (some a)).counter = s.counter := by
    obtain ⟨n, e⟩ := h
    rw [e]
    exact same
  rw [State.whole_of_same _ _ left, State.beginNext_counter, left]

theorem State.Leaves.shows (same : u.counter = s.counter) {i : Item} (hi : i ∈ u.outbound) :
    ((s.endExchange f (some a)).whole s).shows i := by
  obtain ⟨n, e⟩ := h
  have left : (s.endExchange f (some a)).counter = s.counter := by
    rw [e]
    exact same
  rw [State.whole_of_same _ _ left]
  exact State.shows_beginNext _ i (.inl (by rw [e]; exact hi))

end Leaves

/-- What the exchange leaves of the other blocks, when the answer concerns its station alone. -/
theorem stationExchangeFrame (h : s.Leaves f a u) (e : Edited (.at st) (s.heard f a) u) :
    (∀ y, y ≠ st → ((s.endExchange f (some a)).whole s).session y = s.session y)
      ∧ ((s.endExchange f (some a)).whole s).supplies = s.supplies
      ∧ ((s.endExchange f (some a)).whole s).counter = s.counter
      ∧ ((s.endExchange f (some a)).whole s).tick = s.tick
      ∧ SameStore s ((s.endExchange f (some a)).whole s) := by
  obtain ⟨-, supplies, tick, store⟩ := exchangeFrame s f (some a)
  refine ⟨fun y hy => ?_, supplies, h.counter ?_, tick, store⟩
  · rw [h.session, e.session_eq hy, State.heard_session]
  · rw [(e.counter_eq not_false).1, State.heard_counter]

/-! ### One event (R127) -/

/-- An event for an ENGAGED device's session. -/
theorem State.takeEvent_engaged (he : (s.device p).state = .engaged) (reported : e.reportedBy (kindOf p) = true)
    (noFault : ∀ c, e ≠ .fault c) (noError : ∀ k, e ≠ .trackError k) :
    s.takeEvent p e = (s.sessionEvent (stationOf p) e).getD (s.deviceFault p .protocol) := by
  have engaged : s.engaged p = true := by simp [State.engaged, he]
  unfold State.takeEvent
  rw [if_neg (by simp [he, PortState.joined]), if_neg (by simp [reported])]
  cases e with
  | fault c => exact absurd rfl (noFault c)
  | trackError k => exact absurd rfl (noError k)
  | _ => exact if_pos engaged

theorem State.takeEvent_call (hp : kindOf p = .keypad) (hj : (s.device p).state = .ready ∨ (s.device p).state = .dozing)
    (hc : s.counter = .opened ∨ s.counter = .orphaned) : s.takeEvent p (.key .call) = s.noteCall (stationOf p) := by
  have engaged : s.engaged p = false := by rcases hj with h | h <;> simp [State.engaged, h]
  unfold State.takeEvent
  rw [if_neg (by rcases hj with h | h <;> simp [h, PortState.joined]), if_neg (by simp [hp, Event.reportedBy])]
  exact (if_neg (by simp [State.recordTrackError, engaged])).trans (if_pos hc)

end Sys2Proof.Machine
end

section
/-! PROOFS. Keys, cards and sealed blocks taken by the sessions (R34, R40, R45 to R48, R53, R54, R59, R63, R64). -/

namespace Sys2Proof.Machine

variable {s u : State} {st : Station} {p : Port} {f : Flight} {a : Answer} {k : StepKind}

/-! ### What queuing on behalf of a session leaves -/

theorem State.beep_state (b : BeepKind) (x : Port) : ((s.beep st b).device x).state = (s.device x).state := by
  unfold State.beep
  split
  · exact State.queueCommand_state _ _ _ _
  · rfl

theorem State.sessionText_state (t : Text) (x : Port) : ((s.sessionText st t).device x).state = (s.device x).state := by
  unfold State.sessionText
  split
  · exact State.queueCommand_state _ _ _ _
  · rfl

/-! ### Key timing (R39, R40) -/

theorem State.acceptKey_session : (s.acceptKey st k).session st = { s.session st with firstKeyTaken := true } := by
  unfold State.acceptKey
  dsimp only
  split
  · rw [State.removeDeadline_session, State.modifySession_eq, State.session_setSession]
  · rw [State.placeDeadline, State.placeDeadlineAt_session, State.modifySession_eq, State.session_setSession]

theorem State.acceptKey_key : (s.acceptKey st k).deadlineOf (.session st) .key =
    if k.interKeyTime = 0 then none else some (ahead s.tick (k.interKeyTime * 100)) := by
  unfold State.acceptKey
  dsimp only
  split
  · exact State.deadlineOf_removeDeadline _ _ _
  · rw [State.deadlineOf_placeDeadline, State.modifySession_eq]
    rfl

theorem State.acceptKey_deadlineOf {c : DeadlineKind} (h : c ≠ .key) :
    (s.acceptKey st k).deadlineOf (.session st) c = s.deadlineOf (.session st) c := by
  unfold State.acceptKey
  dsimp only
  split
  · rw [State.deadlineOf_removeDeadline_of_ne _ _ _ _ _ (by simp [h])]
    rfl
  · rw [State.deadlineOf_placeDeadline_of_ne _ _ _ _ _ _ (by simp [h])]
    rfl

theorem State.acceptKey_device (x : Port) : (s.acceptKey st k).device x = s.device x := by
  unfold State.acceptKey
  dsimp only
  split <;> rfl

/-! ### The exchange of a POLL with one event -/

theorem State.statusChecks_engaged {d : DeviceStatus} (he : (s.device p).state = .engaged) (awake : d.awake = true)
    (hp : (s.session (stationOf p)).phase ≠ some .waitingClear) : s.statusChecks p d = s := by
  rw [State.statusChecks_agree (Device.dozeDisagrees_engaged he awake) (by rw [he]; rfl), State.statusToSession_of_phase hp]

theorem State.leaves_of_event {e : Event} (hr : f.request = .poll) (hj : (s.device f.port).state.joined = true)
    (carried : f.carried = none) (hc : a.contents = .events [e]) (new : a.batch ≠ (s.device f.port).batchToggle)
    (taken : (s.heard f a).takeEvent f.port e = u) (quiet : u.statusChecks f.port a.status = u) : s.Leaves f a u := by
  have left := State.leaves_of_outcome hr (State.outcome_of_event hr hj carried hc new)
  rwa [taken, quiet] at left

/-! ### A digit in a plain entry (R34, R40) -/

section Plain

variable {n : Nat} {prompt : Text} {lo hi first inter time : Nat} {bounds : Bool}

theorem State.sessionKey_digit (hr : (s.session st).state = .running) (hp : (s.session st).phase = some .active)
    (hx : (s.session st).step? = some ⟨prompt, .entry .plain lo hi bounds first inter time⟩) :
    s.sessionKey st (.digit n) = some (if (s.session st).entryBuffer.length < hi then
      s.changeBuffer st ⟨prompt, .entry .plain lo hi bounds first inter time⟩ ((s.session st).entryBuffer ++ [n])
    else s.beep st .error) := by
  unfold State.sessionKey
  simp only [hr, hp, hx]
  rfl

variable {x : StepRecord} {buffer : Digits}

theorem State.changeBuffer_session : (s.changeBuffer st x buffer).session st =
    { s.session st with entryBuffer := buffer, firstKeyTaken := true } := by
  rw [State.changeBuffer, State.noteCount_session, State.echo, State.sessionText_session, State.acceptKey_session,
    State.modifySession_eq, State.session_setSession]

theorem State.changeBuffer_key : (s.changeBuffer st x buffer).deadlineOf (.session st) .key =
    if x.kind.interKeyTime = 0 then none else some (ahead s.tick (x.kind.interKeyTime * 100)) := by
  rw [State.changeBuffer, State.noteCount_deadlineOf, State.echo, State.sessionText_deadlineOf, State.acceptKey_key,
    State.modifySession_eq]
  rfl

theorem State.changeBuffer_deadlineOf {c : DeadlineKind} (h : c ≠ .key) :
    (s.changeBuffer st x buffer).deadlineOf (.session st) c = s.deadlineOf (.session st) c := by
  rw [State.changeBuffer, State.noteCount_deadlineOf, State.echo, State.sessionText_deadlineOf,
    State.acceptKey_deadlineOf h]
  rfl

theorem State.changeBuffer_state (y : Port) : ((s.changeBuffer st x buffer).device y).state = (s.device y).state := by
  rw [State.changeBuffer, State.noteCount_device, State.echo, State.sessionText_state, State.acceptKey_device]
  rfl

end Plain

/-! ### CALL at a keypad in no session (R53, R54) -/

/-- A notice that stands is updated where it stands. -/
theorem mem_coalesce_standing {key : ItemKey} {update : Item → Item} {fresh x : Item} {l : List Item}
    (one : l.Pairwise fun a b => a.key = none ∨ a.key ≠ b.key) (hx : x ∈ l) (hk : x.key = some key) :
    update x ∈ coalesce key update fresh l := by
  induction l with
  | nil => cases hx
  | cons y l ih =>
    obtain ⟨apart, one⟩ := List.pairwise_cons.1 one
    unfold coalesce
    split
    · rename_i hy
      rcases List.mem_cons.1 hx with e | e
      · rw [e]
        exact List.mem_cons_self
      · rcases apart x e with h | h
        · rw [hy] at h
          cases h
        · exact absurd (hy.trans hk.symm) h
    · rename_i hy
      rcases List.mem_cons.1 hx with e | e
      · rw [e] at hk
        exact absurd hk hy
      · exact List.mem_cons_of_mem _ (ih one e)

theorem State.mem_noteCall_fresh (h : ∀ x ∈ s.outbound, x.key ≠ some (.stationCall st)) :
    .stationCall st 1 ∈ (s.noteCall st).outbound := by
  rw [State.noteCall, State.note_outbound, coalesce_fresh _ _ _ _ h]
  exact List.mem_append_right _ (List.mem_singleton_self _)

theorem State.mem_noteCall_standing {n : Nat} (one : s.coalescedQueue) (h : .stationCall st n ∈ s.outbound) :
    .stationCall st (bump n) ∈ (s.noteCall st).outbound :=
  mem_coalesce_standing one h rfl

theorem State.coalescedQueue_heard (h : s.coalescedQueue) : (s.heard f a).coalescedQueue := by
  unfold State.coalescedQueue
  rcases s.heard_outbound f a with g | ⟨q, l, g⟩
  · rwa [g]
  · rw [g]
    refine List.pairwise_append.2 ⟨h, List.pairwise_singleton _ _, fun x _ y hy => ?_⟩
    rw [List.mem_singleton.1 hy]
    cases hx : x.key with
    | none => exact .inl rfl
    | some k => exact .inr (by simp [Item.key])

theorem State.mem_heard {i : Item} (h : i ∈ s.outbound) : i ∈ (s.heard f a).outbound := by
  rcases s.heard_outbound f a with g | ⟨q, l, g⟩
  · rwa [g]
  · rw [g]
    exact List.mem_append_left _ h

/-- Settles O49. -/
theorem keysAreTakenByPhase : Obligations.KeysAreTakenByPhase := by
  intro s f frame a st h hp hr carried good d new
  have run := exec_of_answered (s := s) (i := .pollAnswer frame) rfl h hr
  rw [good] at run
  have station : stationOf f.port = st := by rw [hp, stationOf_keypadOf]
  have kind : kindOf f.port = .keypad := by rw [hp, kindOf_keypadOf]
  refine ⟨fun n prompt lo hi bounds first inter time hc engaged awake running active step => ?_,
    fun hc free agree counter phase => ?_⟩
  · have key := State.sessionKey_digit (s := s.heard f a) (st := st) (n := n) (by simpa using running)
      (by simpa using active) (by simpa using step)
    rw [State.heard_session] at key
    have state : ((s.heard f a).device f.port).state = .engaged := by rw [State.heard_device]; exact engaged
    generalize hu : (if (s.session st).entryBuffer.length < hi then (s.heard f a).changeBuffer st
      ⟨prompt, .entry .plain lo hi bounds first inter time⟩ ((s.session st).entryBuffer ++ [n])
      else (s.heard f a).beep st .error) = u at key
    have taken : (s.heard f a).takeEvent f.port (.key (.digit n)) = u := by
      rw [State.takeEvent_engaged (e := .key (.digit n)) state (by rw [kind]; rfl) nofun nofun, station, State.sessionEvent, key]
      rfl
    have edit : Edited (.at st) (s.heard f a) u := by
      rw [← hu]
      exact edited_ite (edited_changeBuffer _ _ _ _) (edited_beep _ _ _)
    have kept : (u.device f.port).state = .engaged ∧ (u.session st).phase = some .active := by
      rw [← hu]
      split
      · exact ⟨(State.changeBuffer_state _).trans state, by rw [State.changeBuffer_session, State.heard_session]; exact active⟩
      · exact ⟨(State.beep_state _ _).trans state, by rw [State.beep_session, State.heard_session]; exact active⟩
    have left : s.Leaves f a u := State.leaves_of_event hr (by rw [engaged]; rfl) carried hc new taken
      (State.statusChecks_engaged kept.1 awake (by rw [station, kept.2]; decide))
    obtain ⟨others, supplies, same, tick, store⟩ := stationExchangeFrame left edit
    refine ⟨_, run, fun room => ?_, fun full => ?_, ?_, others, supplies, same, tick, store⟩
    · rw [left.session, left.deadlineOf (by simp), ← hu, if_pos room, State.changeBuffer_session,
        State.changeBuffer_key, State.heard_session, State.heard_tick]
      exact ⟨rfl, rfl⟩
    · rw [left.session, left.deadlineOf (by simp), ← hu, if_neg (Nat.not_lt.2 full), State.beep_session,
        State.beep_deadlineOf, State.heard_session, State.heard_deadlineOf]
      exact ⟨rfl, rfl⟩
    · rw [left.deadlineOf (by simp), ← hu]
      split
      · rw [State.changeBuffer_deadlineOf (by decide), State.heard_deadlineOf]
      · rw [State.beep_deadlineOf, State.heard_deadlineOf]
  · have state : ((s.heard f a).device f.port).state = d.state := by rw [State.heard_device]; rfl
    have taken : (s.heard f a).takeEvent f.port (.key .call) = (s.heard f a).noteCall st := by
      rw [State.takeEvent_call kind (by rwa [state]) (by rwa [State.heard_counter]), station]
    have joined : (s.device f.port).state.joined = true := PortState.joined_iff.2 (free.imp id .inr)
    have edit : Edited (.at st) (s.heard f a) ((s.heard f a).noteCall st) := edited_noteCall _ _
    have quiet : ((s.heard f a).noteCall st).statusChecks f.port a.status = (s.heard f a).noteCall st := by
      refine State.statusChecks_quiet ?_ ?_
      · rw [station]
        exact fun c => phase ((congrArg Session.phase (s.heard_session f a st)).symm.trans c)
      · show ((s.heard f a).device f.port).dozeDisagrees a.status = false
        rw [State.heard_device]
        exact agree
    have left : s.Leaves f a ((s.heard f a).noteCall st) :=
      State.leaves_of_event hr joined carried hc new taken quiet
    have unchanged : ((s.heard f a).noteCall st).counter = s.counter := s.heard_counter f a
    obtain ⟨others, supplies, same, tick, store⟩ := stationExchangeFrame left edit
    refine ⟨_, run, fun fresh => ?_, fun n one standing => ?_, ?_, supplies, same, tick, store⟩
    · exact left.shows unchanged (State.mem_noteCall_fresh (s.heard_fresh f a fresh))
    · exact left.shows unchanged (State.mem_noteCall_standing (State.coalescedQueue_heard one) (State.mem_heard standing))
    · exact sessions_eq_of_session fun y => (left.session y).trans (s.heard_session f a y)

end Sys2Proof.Machine
end

section
/-! PROOFS. A card judged and a sealed block, delivered or at fault (R45 to R48, R59, R63, R64, R113). -/

namespace Sys2Proof.Machine

variable {s u v : State} {st : Station} {p : Port} {f : Flight} {a : Answer} {data : ResultData}

/-! ### A delivery in an exchange (R13 to R15) -/

theorem State.deliver_devices : (v.deliver st data).devices = v.devices := by
  rcases v.deliver_cases st data with ⟨tag, i, -, -, e⟩ | ⟨-, e⟩
  · rw [e]
    unfold State.offerResult
    split
    · simp [State.toDelivering, State.removeSessionDeadlines]
    · simp [State.toDelivering, State.placeResult, State.removeSessionDeadlines]
  · rw [e]
    simp [State.toDelivering, State.removeSessionDeadlines]

/-- What a step's delivery makes of its session, its result and its deadlines. -/
structure Delivers (st : Station) (tag i : Nat) (data : ResultData) (s v t : State) : Prop where
  record : ∃ e c b p, t.session st = { v.session st with
    phase := some .delivering, entryBuffer := e, concealedCount := c, sealedBlock := b, pendingResult := p }
  placed : s.outstanding st = false → t.shows (.stepResult ⟨st, tag, i, data⟩)
  pending : s.outstanding st = true →
    t.session st = { v.session st with phase := some .delivering, pendingResult := some ⟨st, tag, i, data⟩ }
  deadlines : ∀ k, k = .step ∨ k = .warn ∨ k = .key → t.deadlineOf (.session st) k = none

/-- The exchange of a POLL whose one event delivers a result of the station's step. -/
theorem State.leaves_of_delivery {e : Event} (hr : f.request = .poll) (engaged : (s.device f.port).state = .engaged)
    (carried : f.carried = none) (hc : a.contents = .events [e]) (new : a.batch ≠ (s.device f.port).batchToggle)
    (awake : a.status.awake = true) (station : stationOf f.port = st)
    (taken : (s.heard f a).takeEvent f.port e = v.deliver st data) (he : (v.device f.port).state = .engaged) :
    s.Leaves f a (v.deliver st data) := by
  have device : (v.deliver st data).device f.port = v.device f.port :=
    congrArg (fun v : Vector Device 16 => v[f.port.val]) State.deliver_devices
  obtain ⟨b, c, d, g, record⟩ := v.deliver_session st data
  refine State.leaves_of_event hr (by rw [engaged]; rfl) carried hc new taken
    (State.statusChecks_engaged (by rw [device, he]) awake ?_)
  rw [station, record]
  simp

theorem State.Leaves.delivers {tag i : Nat} (left : s.Leaves f a (v.deliver st data))
    (edit : Edited (.at st) (s.heard f a) v) (ht : (v.session st).tag = some tag)
    (hi : (v.session st).index = some i) (same : v.outbound = (s.heard f a).outbound) :
    Delivers st tag i data s v ((s.endExchange f (some a)).whole s)
      ∧ (∀ y, y ≠ st → ((s.endExchange f (some a)).whole s).session y = s.session y)
      ∧ ((s.endExchange f (some a)).whole s).supplies = s.supplies
      ∧ ((s.endExchange f (some a)).whole s).counter = s.counter
      ∧ ((s.endExchange f (some a)).whole s).tick = s.tick
      ∧ SameStore s ((s.endExchange f (some a)).whole s) := by
  have all := edit.trans (edited_deliver v st data)
  have counter : (v.deliver st data).counter = s.counter := (all.counter_eq not_false).1.trans (s.heard_counter f a)
  have outstanding : v.outstanding st = s.outstanding st := by
    rw [← s.heard_outstanding f a st]
    unfold State.outstanding State.sendingSuch
    rw [same, edit.untouched.sending]
  refine ⟨⟨?_, fun h => ?_, fun h => ?_, fun k hk => ?_⟩, stationExchangeFrame left all⟩
  · rw [left.session]
    exact v.deliver_session st data
  · exact left.shows counter (State.mem_deliver ht hi _ (outstanding.trans h))
  · rw [left.session, State.deliver_pending ht hi _ (outstanding.trans h)]
  · rw [left.deadlineOf (by simp), v.deliver_deadlineOf st _ hk]

/-! ### A card judged (R59, R63, R64) -/

theorem State.stopIntake_session : (s.stopIntake st).session st = { s.session st with readerIntake := false } := by
  rw [State.stopIntake, State.modifySession_eq, State.session_setSession, State.sessionQueue, State.queueCommand_session]

theorem State.stopIntake_outbound : (s.stopIntake st).outbound = s.outbound := State.queueCommand_outbound _ _ _

theorem State.stopIntake_state (x : Port) : ((s.stopIntake st).device x).state = (s.device x).state :=
  State.queueCommand_state _ _ _ _

/-- The state in which an accepted card's step delivers. -/
def State.holdingCard (s : State) (st : Station) (card : CardRecord) (e : PolicyEntry) : State :=
  (s.stopIntake st).modifySession st fun r => { r with cardRecord := some card, policyCopy := some e }

/-- The state in which a refused card's step delivers. -/
def State.refusing (s : State) (st : Station) : State :=
  (s.stopIntake st).modifySession st fun r => { r with cardRefused := true }

theorem State.holdingCard_session (card : CardRecord) (e : PolicyEntry) : (s.holdingCard st card e).session st =
    { s.session st with readerIntake := false, cardRecord := some card, policyCopy := some e } := by
  rw [State.holdingCard, State.modifySession_eq, State.session_setSession, State.stopIntake_session]

theorem State.refusing_session : (s.refusing st).session st =
    { s.session st with readerIntake := false, cardRefused := true } := by
  rw [State.refusing, State.modifySession_eq, State.session_setSession, State.stopIntake_session]

theorem State.sessionReader_track {prompt : Text} {attempts time check : Nat} {chars : List Nat}
    (hr : (s.session st).state = .running) (hp : (s.session st).phase = some .active)
    (hx : (s.session st).step? = some ⟨prompt, .card attempts time⟩) (hw : (s.session st).retryWait = false) :
    s.sessionReader st (.track chars check) = s.takeTrack st attempts chars check := by
  unfold State.sessionReader
  simp only [hr, hp, hx, hw]

/-- Settles O50. -/
theorem judgedCardDelivers : Obligations.JudgedCardDelivers := by
  intro s f frame a st attempts time tag i prompt chars check h hp hr carried good hc new awake engaged running active
    step retry ht hi judged readable
  have run := exec_of_answered (s := s) (i := .pollAnswer frame) rfl h hr
  rw [good] at run
  have station : stationOf f.port = st := by rw [hp, stationOf_readerOf]
  have state : ((s.heard f a).device f.port).state = .engaged := by rw [State.heard_device]; exact engaged
  have event : (s.heard f a).takeEvent f.port (.track chars check) =
      (s.heard f a).takeTrack st attempts chars check := by
    rw [State.takeEvent_engaged (e := .track chars check) state (by rw [hp, kindOf_readerOf]; rfl) nofun nofun, station,
      State.sessionEvent, State.sessionReader_track (by simpa using running) (by simpa using active) (by simpa using step)
        (by simpa using retry)]
    rfl
  obtain ⟨-, -, -, policy, default, month⟩ := s.sameStore_heard f a
  have verdict : evaluate (s.heard f a).policy (s.heard f a).defaultPolicy (s.heard f a).businessMonth chars check = judged := by
    rw [policy, default, month]
  rw [State.takeTrack, verdict] at event
  cases e : judged with
  | readError => exact absurd e readable
  | accepted card entry =>
    rw [e] at event
    have record := State.holdingCard_session (s := s.heard f a) (st := st) card entry
    rw [State.heard_session] at record
    have left := State.leaves_of_delivery (v := (s.heard f a).holdingCard st card entry) hr engaged carried hc new awake
      station event ((State.stopIntake_state _).trans state)
    obtain ⟨result, frame⟩ := left.delivers (tag := tag) (i := i)
      ((edited_stopIntake _ st).trans (edited_modifySession _ st _)) (by rw [record]; exact ht) (by rw [record]; exact hi)
      State.stopIntake_outbound
    obtain ⟨b, c, d, g, after⟩ := result.record
    rw [record] at after
    refine ⟨_, run, by rw [after], by rw [after], fun card' entry' accepted => ?_, nofun, result.deadlines, frame⟩
    injection accepted with hcard hentry
    rw [← hcard, ← hentry]
    refine ⟨by rw [after], by rw [after], by rw [after], result.placed, fun out => by rw [result.pending out]⟩
  | refused reason =>
    rw [e] at event
    have record := State.refusing_session (s := s.heard f a) (st := st)
    rw [State.heard_session] at record
    have left := State.leaves_of_delivery (v := (s.heard f a).refusing st) hr engaged carried hc new awake
      station event ((State.stopIntake_state _).trans state)
    obtain ⟨result, frame⟩ := left.delivers (tag := tag) (i := i)
      ((edited_stopIntake _ st).trans (edited_modifySession _ st _)) (by rw [record]; exact ht) (by rw [record]; exact hi)
      State.stopIntake_outbound
    obtain ⟨b, c, d, g, after⟩ := result.record
    rw [record] at after
    refine ⟨_, run, by rw [after], by rw [after], nofun, fun reason' refused => ?_, result.deadlines, frame⟩
    injection refused with hreason
    rw [← hreason]
    exact ⟨by rw [after], by rw [after], by rw [after], result.placed, fun out => by rw [result.pending out]⟩

/-! ### A sealed block (R45 to R48) -/

section Sealed

variable {n lo hi first inter time : Nat} {bounds : Bool} {prompt : Text} {block : List Byte}

/-- The state in which a sealed block's step delivers. -/
def State.withSealed (s : State) (st : Station) (n : Nat) (block : List Byte) : State :=
  s.modifySession st fun r => { r with sealedBlock := some ⟨n, block⟩, concealedCount := n, concealedOpen := false }

theorem State.withSealed_session : (s.withSealed st n block).session st =
    { s.session st with sealedBlock := some ⟨n, block⟩, concealedCount := n, concealedOpen := false } := by
  rw [State.withSealed, State.modifySession_eq, State.session_setSession]

theorem Session.concealedRunning_of {r : Session} {k : StepKind} (hr : r.state = .running)
    (hp : r.phase = some .waitingClear ∨ r.phase = some .active) (hx : r.step? = some ⟨prompt, k⟩)
    (hk : k.isConcealed = true) : r.concealedRunning = some k := by
  unfold Session.concealedRunning
  rcases hp with hp | hp <;> simp only [hr, hp, hx, hk, if_true]

/-- A SEALED in a running concealed entry: delivered within the bounds, and none outside them. -/
theorem State.sessionSealed_of {k : StepKind} (h : (s.session st).concealedRunning = some k) :
    s.sessionSealed st n block =
      if ((s.session st).entryBounds k).1 ≤ n ∧ n ≤ ((s.session st).entryBounds k).2 then
        some ((s.withSealed st n block).deliver st (.entryConcealed n block))
      else none := by
  unfold State.sessionSealed
  simp only [h]
  rfl

theorem edited_faulted (s : State) (p : Port) (c : LastFault) : Edited (.device p) s (s.faulted p c) := by
  have record : Edited (.device p) s (s.setDevice p ((s.device p).faulty c)) := .device _ _ .refl rfl (.inl le_rfl)
  exact (record.trans (.remove (.device p) .device .refl rfl)).trans (edited_restartOnFault _ p c.reason rfl)

/-- A device at fault under a running session that does not deliver ends it (R24). -/
theorem State.ends_deviceFault {c : LastFault} (he : (s.device p).state = .engaged)
    (hr : (s.session (stationOf p)).state = .running) (hp : (s.session (stationOf p)).phase ≠ some .delivering) :
    Ends (s.session (stationOf p)) ((s.deviceFault p c).session (stationOf p)) .deviceLost := by
  have same : (s.faulted p c).session (stationOf p) = s.session (stationOf p) :=
    (edited_faulted s p c).session_eq not_false
  have ends := State.ends_enterEnding (s := s.faulted p c) (st := stationOf p) .deviceLost
  rw [State.deviceFault_eq, if_pos (by simp [State.engaged, he]), State.sessionLoss_of_running _ _ (by rwa [same])
    (by rwa [same])]
  rwa [same] at ends

theorem State.deviceFault_state (c : LastFault) : ((s.deviceFault p c).device p).state =
    if (s.device p).restartCount < s.settings.restartLimit then .restarting else .held := by
  obtain ⟨-, -, -, -, below, limit⟩ := State.deviceFault_spec (s := s) (p := p) c
  split
  · rename_i h
    exact (below h).1
  · rename_i h
    exact (limit (Nat.le_of_not_lt h)).1

/-- Settles O51. -/
theorem sealedBlockDeliversOrFaults : Obligations.SealedBlockDeliversOrFaults := by
  intro s f frame a st n lo hi first inter time tag i bounds prompt block h hp hr carried good hc new awake engaged
    running phase step ht hi' range
  have run := exec_of_answered (s := s) (i := .pollAnswer frame) rfl h hr
  rw [good] at run
  have station : stationOf f.port = st := by rw [hp, stationOf_keypadOf]
  have state : ((s.heard f a).device f.port).state = .engaged := by rw [State.heard_device]; exact engaged
  have entry := Session.concealedRunning_of (r := s.session st) running phase step rfl
  have seals := State.sessionSealed_of (s := s.heard f a) (n := n) (block := block) (by rw [State.heard_session]; exact entry)
  rw [State.heard_session] at seals
  have event : (s.heard f a).takeEvent f.port (.sealedBlock n block) =
      ((s.heard f a).sessionSealed st n block).getD ((s.heard f a).deviceFault f.port .protocol) := by
    rw [State.takeEvent_engaged (e := .sealedBlock n block) state (by rw [hp, kindOf_keypadOf]; rfl) nofun nofun, station]
    rfl
  refine ⟨fun within => ?_, fun outside => ?_⟩
  · rw [seals, if_pos within] at event
    have record := State.withSealed_session (s := s.heard f a) (st := st) (n := n) (block := block)
    rw [State.heard_session] at record
    have left := State.leaves_of_delivery (v := (s.heard f a).withSealed st n block) hr engaged carried hc new awake
      station event state
    obtain ⟨result, frame⟩ := left.delivers (tag := tag) (i := i) (edited_modifySession _ st _)
      (by rw [record]; exact ht) (by rw [record]; exact hi') rfl
    obtain ⟨b, c, d, g, after⟩ := result.record
    rw [record] at after
    refine ⟨_, run, by rw [after], by rw [after], result.placed, fun out => ?_, result.deadlines, frame⟩
    rw [result.pending out, record]
    exact ⟨rfl, rfl⟩
  · have refused : ¬(range.1 ≤ n ∧ n ≤ range.2) := fun c => by omega
    rw [seals, if_neg refused, Option.getD_none] at event
    have unjoined : (((s.heard f a).deviceFault f.port .protocol).device f.port).state.joined = false := by
      rw [State.deviceFault_device]
      exact State.faulted_not_joined _
    have left := State.leaves_of_event hr (by rw [engaged]; rfl) carried hc new event (State.statusChecks_unjoined unjoined)
    have edit : Edited (.at st) (s.heard f a) ((s.heard f a).deviceFault f.port .protocol) := by
      rw [← station]
      exact edited_deviceFault _ _ _
    have moves := State.deviceFault_state (s := s.heard f a) (p := f.port) .protocol
    have ends := State.ends_deviceFault (s := s.heard f a) (c := .protocol) state
      (by rw [station, State.heard_session]; exact running)
      (by rw [station, State.heard_session]; rcases phase with e | e <;> rw [e] <;> decide)
    rw [State.heard_device, State.heard_settings] at moves
    rw [station, State.heard_session] at ends
    refine ⟨_, run, ?_, ?_, ?_, stationExchangeFrame left edit⟩
    · obtain ⟨-, fault, -⟩ := State.deviceFault_spec (s := s.heard f a) (p := f.port) .protocol
      rw [left.device, fault]
    · rw [left.device, moves]
      rfl
    · rw [left.session]
      exact ends

end Sealed

end Sys2Proof.Machine
end

section
/-! PROOFS. A command in carriage confirmed (R10, R21, R121, R124, R140). -/

namespace Sys2Proof.Machine

variable {s u : State} {st : Station} {p : Port} {f : Flight} {a : Answer} {q : Queued} {rest : List Queued}

/-! ### The head of the queue taken (R121, R124) -/

/-- The port state once a command was taken. -/
def PortState.afterTaking (x : PortState) (c : DeviceCommand) : PortState :=
  if c = .doze ∧ x = .ready then .dozing else if c = .wake ∧ x = .dozing then .ready else x

/-- The DEVICE-CHANGE reason of a power command taken. -/
def PortState.powerReason (after : PortState) : DeviceReason := if after = .dozing then .dozed else .woken

/-- A command taken leaves the port state, or it is a power command that changes it. -/
theorem State.powerTaken_cases (s : State) (p : Port) (c : DeviceCommand) :
    (s.powerTaken p c = s ∧ (s.device p).state.afterTaking c = (s.device p).state)
      ∨ (s.powerTaken p c = s.changePort p ((s.device p).state.afterTaking c)
          ((s.device p).state.afterTaking c).powerReason) := by
  unfold State.powerTaken
  split
  · rename_i ready
    rw [ready]
    exact .inr rfl
  · rename_i dozing
    rw [dozing]
    exact .inr rfl
  · rename_i notDoze notWake
    refine .inl ⟨rfl, ?_⟩
    rw [PortState.afterTaking, if_neg fun h => notDoze h.1 h.2, if_neg fun h => notWake h.1 h.2]

theorem State.powerTaken_device (c : DeviceCommand) : (s.powerTaken p c).device p =
    { s.device p with state := (s.device p).state.afterTaking c } := by
  rcases s.powerTaken_cases p c with ⟨e, same⟩ | e
  · rw [e, same]
  · rw [e, State.changePort_device]

theorem edited_powerTaken_only (s : State) (p : Port) (c : DeviceCommand) : Edited (.device p) s (s.powerTaken p c) :=
  edited_powerTaken s p c rfl

theorem State.mem_powerTaken {c : DeviceCommand} (moved : (s.device p).state.afterTaking c ≠ (s.device p).state)
    (fresh : ∀ x ∈ s.outbound, x.key ≠ some (.deviceChange p)) :
    .deviceChange p (s.device p).state ((s.device p).state.afterTaking c)
      ((s.device p).state.afterTaking c).powerReason 1 ∈ (s.powerTaken p c).outbound := by
  rcases s.powerTaken_cases p c with ⟨-, same⟩ | e
  · exact absurd same moved
  · rw [e, State.changePort_eq_note, State.noteDevice, State.note_outbound, coalesce_fresh]
    · exact List.mem_append_right _ (List.mem_singleton_self _)
    · rw [State.dueAfterChange_outbound]
      exact fresh

theorem State.powerTaken_outstanding (c : DeviceCommand) (x : Station) :
    (s.powerTaken p c).outstanding x = s.outstanding x := by
  rcases s.powerTaken_cases p c with ⟨e, -⟩ | e
  · rw [e]
  · rw [e]
    refine s.outstanding_of_outbound x ?_ (State.changePort_sending _ _ _ _)
    rw [State.changePort_eq_note, State.noteDevice, State.note_outbound, any_isResultOf_coalesce _ _ _ _ rfl,
      State.dueAfterChange_outbound]
    · rfl
    · intro y hy
      cases y with
      | deviceChange => exact hy
      | _ => exact hy

/-- A state in which the head of a device's queue was taken, before its requester is told. -/
def State.headOff (s : State) (p : Port) (q : Queued) (rest : List Queued) : State :=
  (s.setDevice p ((s.device p).headTaken rest)).powerTaken p q.command

theorem State.commandTaken_eq (h : (s.device p).queue = q :: rest) :
    s.commandTaken p = (s.headOff p q rest).tellRequester p q := by
  unfold State.commandTaken
  rw [h]
  rfl

theorem State.headOff_device : (s.headOff p q rest).device p =
    { (s.device p).headTaken rest with state := (s.device p).state.afterTaking q.command } := by
  rw [State.headOff, State.powerTaken_device, State.device_setDevice]
  rfl

theorem edited_headOff (s : State) (p : Port) (q : Queued) (rest : List Queued) :
    Edited (.device p) s (s.headOff p q rest) :=
  Edited.trans (.device p ((s.device p).headTaken rest) .refl rfl (.inl le_rfl)) (edited_powerTaken_only _ p _)

theorem State.headOff_outstanding (x : Station) : (s.headOff p q rest).outstanding x = s.outstanding x :=
  State.powerTaken_outstanding _ x

/-! ### The session is told (R10, R21, R22) -/

/-- Whether a session waits on a command of a purpose: its setup in STARTING, its wind-down in ENDING. -/
def Session.awaits (r : Session) (purpose : Purpose) : Prop :=
  (purpose = .setup ∧ r.state = .running ∧ r.phase = some .starting) ∨ (purpose = .windDown ∧ r.state = .ending)

theorem State.sessionTold_stale {serial : Nat} {purpose : Purpose} {c : CommandClass}
    (h : ¬(serial = (s.session st).serial ∧ (s.session st).awaits purpose)) :
    s.sessionTold st serial purpose p c = s := by
  unfold State.sessionTold
  dsimp only
  split
  · rfl
  · rename_i same
    have current : serial = (s.session st).serial := by simpa using Eq.symm (by simpa using same)
    cases purpose with
    | setup => exact if_neg fun g => h ⟨current, .inl ⟨rfl, g⟩⟩
    | windDown => exact if_neg fun g => h ⟨current, .inr ⟨rfl, g⟩⟩
    | other => rfl

theorem State.sessionTold_setup {c : CommandClass} (hr : (s.session st).state = .running)
    (hp : (s.session st).phase = some .starting) : s.sessionTold st (s.session st).serial .setup p c =
      if ((s.session st).waitDone p c).waits = [] then (s.setSession st ((s.session st).waitDone p c)).endStarting st
      else s.setSession st ((s.session st).waitDone p c) := by
  unfold State.sessionTold
  simp only [bne_self_eq_false, Bool.false_eq_true, if_false, hr, hp, and_self, if_true, State.modifySession_eq,
    State.session_setSession, List.isEmpty_iff]

theorem State.sessionTold_windDown {c : CommandClass} (hr : (s.session st).state = .ending) :
    s.sessionTold st (s.session st).serial .windDown p c = (s.setSession st ((s.session st).waitDone p c)).tryComplete st := by
  unfold State.sessionTold
  simp only [bne_self_eq_false, Bool.false_eq_true, if_false, hr, if_true, State.modifySession_eq]

theorem State.tellRequester_session {serial : Nat} {purpose : Purpose} (h : q.requester = .session st serial purpose) :
    s.tellRequester p q = s.sessionTold st serial purpose p q.command.cls := by
  unfold State.tellRequester
  rw [h]

theorem State.tellRequester_stale (h : ∀ st purpose, ¬(q.requester = .session st (s.session st).serial purpose
    ∧ (s.session st).awaits purpose)) : s.tellRequester p q = s := by
  cases r : q.requester with
  | session st serial purpose =>
    rw [State.tellRequester_session r]
    refine State.sessionTold_stale fun told => h st purpose ⟨?_, told.2⟩
    rw [r, told.1]
  | counter => unfold State.tellRequester; rw [r]
  | ports => unfold State.tellRequester; rw [r]

/-! ### Devices handed back (R21) -/

/-- What a session that completes its ENDING makes of a device: its power commands and its power state stay. -/
structure Handed (d e : Device) : Prop where
  power : e.powerStands = d.powerStands
  carriage : e.inCarriage = d.inCarriage
  state : e.state = d.state ∨ (d.state = .engaged ∧ e.state = .ready)

theorem Handed.refl (d : Device) : Handed d d := ⟨rfl, rfl, .inl rfl⟩

theorem Handed.trans {d e g : Device} (h : Handed d e) (k : Handed e g) : Handed d g := by
  refine ⟨k.power.trans h.power, k.carriage.trans h.carriage, ?_⟩
  rcases h.state with hs | ⟨hs, hr⟩
  · rw [← hs]
    exact k.state
  · rcases k.state with ks | ⟨ks, -⟩
    · exact .inr ⟨hs, ks.trans hr⟩
    · rw [hr] at ks
      cases ks

theorem Handed.joined {d e : Device} (h : Handed d e) : e.state.joined = d.state.joined := by
  rcases h.state with hs | ⟨hs, hr⟩
  · rw [hs]
  · rw [hs, hr]
    rfl

theorem Handed.dozeDisagrees {d e : Device} (h : Handed d e) (x : DeviceStatus) :
    e.dozeDisagrees x = d.dozeDisagrees x := by
  unfold Device.dozeDisagrees
  rw [h.power]
  rcases h.state with hs | ⟨hs, hr⟩
  · rw [hs]
  · rw [hs, hr]

theorem handed_changePort (s : State) (x p : Port) (h : s.engaged x = true) (reason : DeviceReason) :
    Handed (s.device p) ((s.changePort x .ready reason).device p) := by
  by_cases e : p = x
  · rw [e, State.changePort_device]
    exact ⟨rfl, rfl, .inr ⟨by simpa [State.engaged] using h, rfl⟩⟩
  · rw [State.changePort_device_of_ne _ _ _ _ e]
    exact .refl _

theorem handed_releasePort (s : State) (x p : Port) : Handed (s.device p) ((s.releasePort x).device p) := by
  unfold State.releasePort
  split
  · rename_i h
    exact handed_changePort s x p h _
  · exact .refl _

/-- A command that meets the one of its class leaves the other classes of the queue. -/
theorem ofClass_meetInQueue {c : CommandClass} (h : c ≠ q.command.cls) (l : List Queued) :
    ofClass c (meetInQueue q l) = ofClass c l := by
  unfold ofClass
  induction l with
  | nil => rfl
  | cons x xs ih =>
    unfold meetInQueue
    by_cases same : x.command.cls = q.command.cls
    · have skipX : (x.command.cls == c) = false := by simpa [same] using Ne.symm h
      have skipQ : (q.command.cls == c) = false := by simpa using Ne.symm h
      rw [if_pos same, List.find?_cons_of_neg (by simp [skipX])]
      split
      · rw [List.find?_cons_of_neg (by simp [skipX])]
      · rfl
      · rw [List.find?_cons_of_neg (by simp [skipQ])]
    · rw [if_neg same, List.find?_cons, List.find?_cons, ih]

/-- A text accepted with no command in carriage. -/
theorem handed_accept_text (d : Device) (t : Text) (r : Requester) (hc : d.inCarriage = false) :
    Handed d (d.accept ⟨.showText t, r⟩).1 := by
  have uncarried : d.carriesClass .text = false := by simp [Device.carriesClass, hc]
  unfold Device.accept
  rw [if_neg (by rw [show (DeviceCommand.showText t).cls = .text from rfl, uncarried]; decide)]
  split
  · refine ⟨?_, rfl, .inl rfl⟩
    unfold Device.powerStands
    rw [ofClass_meetInQueue (show CommandClass.power ≠ .text by decide)]
  · refine ⟨?_, rfl, .inl rfl⟩
    unfold Device.powerStands ofClass
    simp [List.find?_append, DeviceCommand.cls]

theorem handed_settleTextOwed (s : State) (st : Station) (p : Port) (hc : (s.device p).inCarriage = false) :
    Handed (s.device p) ((s.settleTextOwed st).device p) := by
  have queued : ∀ v : State, v.device p = s.device p → ∀ t,
      Handed (s.device p) ((v.queueCommand (keypadOf st) ⟨.showText t, .counter⟩).device p) := fun v same t => by
    by_cases e : p = keypadOf st
    · rw [← e, State.queueCommand_device, same]
      split
      · exact handed_accept_text _ t _ hc
      · exact .refl _
    · rw [State.queueCommand_device_of_ne _ _ _ e, same]
      exact .refl _
  unfold State.settleTextOwed
  dsimp only
  split
  · split
    · exact queued { s with textOwed := s.textOwed.set st.val none } rfl _
    · exact .refl _
  · exact .refl _

theorem handed_completeEnding (s : State) (st : Station) (p : Port) (hc : (s.device p).inCarriage = false) :
    Handed (s.device p) ((s.completeEnding st).device p) := by
  have ended : (s.withSessionEnd st).device p = s.device p := by
    obtain ⟨o, e⟩ := s.withSessionEnd_spec st
    rw [e]
    rfl
  have reader := handed_releasePort (s.withSessionEnd st) (readerOf st) p
  have keypad := handed_releasePort ((s.withSessionEnd st).releasePort (readerOf st)) (keypadOf st) p
  have both := reader.trans keypad
  rw [ended] at both
  rw [State.completeEnding_eq]
  generalize ((s.withSessionEnd st).releasePort (readerOf st)).releasePort (keypadOf st) = v at both
  have settled := handed_settleTextOwed (v.modifySession st Session.ended) st p (both.carriage.trans hc)
  exact both.trans settled

theorem State.mem_completeEnding {tag : Nat} {cause : EndCause} (ht : (s.session st).tag = some tag)
    (hc : (s.session st).endCause = some cause) : .sessionEnd st tag cause ∈ (s.completeEnding st).outbound := by
  have placed : .sessionEnd st tag cause ∈ (s.withSessionEnd st).outbound := by
    unfold State.withSessionEnd
    simp only [ht, hc]
    exact State.mem_append _ _
  have edit : Edited (.at st) (s.withSessionEnd st) (s.completeEnding st) := by
    rw [State.completeEnding_eq]
    exact (((edited_releasePort _ st _ (Scope.at_reader st)).trans (edited_releasePort _ st _ (Scope.at_keypad st))).trans
      (edited_modifySession _ st _)).trans (edited_settleTextOwed _ st)
  exact edit.mem_outbound rfl placed

theorem State.settleTextOwed_awaitsText {x : Text} (ready : (s.device (keypadOf st)).state = .ready)
    (owed : s.owedText st = some x) : (s.settleTextOwed st).awaitsText (keypadOf st) x := by
  have queues : s.settleTextOwed st = ({ s with textOwed := s.textOwed.set st.val none } : State).queueCommand
      (keypadOf st) ⟨.showText x, .counter⟩ := by
    unfold State.settleTextOwed
    simp only [owed, ready, if_true]
  have accepted : (s.settleTextOwed st).device (keypadOf st) =
      ((s.device (keypadOf st)).accept ⟨.showText x, .counter⟩).1 := by
    rw [queues, State.queueCommand_device, if_pos]
    · rfl
    · rw [State.acceptsCommand, kindOf_keypadOf, Bool.and_eq_true]
      exact ⟨congrArg PortState.joined ready, rfl⟩
  unfold State.awaitsText
  rw [accepted]
  exact Device.accept_text _ x .counter

theorem State.owedText_congr {t : State} (hx : t.textOwed = s.textOwed) (hc : t.counter = s.counter)
    (hs : SameStore s t) : t.owedText st = s.owedText st := by
  obtain ⟨-, idle, closed, -⟩ := hs
  unfold State.owedText State.idleText
  rw [hx, hc, idle, closed]

theorem State.releasePort_device_of_ne {x : Port} (h : x ≠ p) : (s.releasePort p).device x = s.device x := by
  unfold State.releasePort
  split
  · exact State.changePort_device_of_ne _ _ _ _ h
  · rfl

theorem State.releasePort_ready (h : (s.device p).state = .engaged) : ((s.releasePort p).device p).state = .ready := by
  rw [State.releasePort, if_pos (by simp [State.engaged, h]), State.changePort_device]

/-- The keypad handed back by a session that has ended waits for the text its station is owed (R168, R180). -/
theorem State.completeEnding_awaitsText {x : Text} (engaged : (s.device (keypadOf st)).state = .engaged)
    (owed : s.owedText st = some x) : (s.completeEnding st).awaitsText (keypadOf st) x := by
  have edit : Edited (.at st) (s.withSessionEnd st) (((s.withSessionEnd st).releasePort (readerOf st)).releasePort
      (keypadOf st)) :=
    (edited_releasePort _ st _ (Scope.at_reader st)).trans (edited_releasePort _ st _ (Scope.at_keypad st))
  have ready : ((((s.withSessionEnd st).releasePort (readerOf st)).releasePort (keypadOf st)).device
      (keypadOf st)).state = .ready := by
    refine State.releasePort_ready ?_
    rw [State.releasePort_device_of_ne (readerOf_ne_keypadOf st st).symm]
    obtain ⟨o, e⟩ := s.withSessionEnd_spec st
    rw [e]
    exact engaged
  have texts : (((s.withSessionEnd st).releasePort (readerOf st)).releasePort (keypadOf st)).textOwed = s.textOwed := by
    obtain ⟨o, e⟩ := s.withSessionEnd_spec st
    rw [State.releasePort_textOwed, State.releasePort_textOwed, e]
  have same : ∀ v, Edited (.at st) (s.withSessionEnd st) v → v.textOwed = s.textOwed → v.owedText st = some x :=
    fun v e ht => by
      obtain ⟨o, g⟩ := s.withSessionEnd_spec st
      have ended : (s.withSessionEnd st).owedText st = s.owedText st := by
        rw [g]
        rfl
      rw [← owed, ← ended]
      refine State.owedText_congr (ht.trans ?_) (e.counter_eq not_false).1 e.untouched.sameStore
      rw [g]
  have still := same _ edit texts
  rw [State.completeEnding_eq]
  generalize ((s.withSessionEnd st).releasePort (readerOf st)).releasePort (keypadOf st) = v at ready still
  exact State.settleTextOwed_awaitsText (s := v.modifySession st Session.ended) ready still

end Sys2Proof.Machine
end

section
/-! PROOFS. The exchange of a POLL that carried a command (R10, R21, R101, R113, R124, R140, R141, R168, R180). -/

namespace Sys2Proof.Machine

variable {s u : State} {st : Station} {p : Port} {f : Flight} {a : Answer} {q : Queued} {rest : List Queued}

/-! ### The status told to the session (R11, R58) -/

theorem State.statusToSession_of_not_clearing {d : DeviceStatus} (h : ¬((s.session (stationOf p)).state = .running
    ∧ (s.session (stationOf p)).phase = some .waitingClear)) : s.statusToSession p d = s := if_neg h

theorem State.statusToSession_session {d : DeviceStatus} {y : Station}
    (h : ¬((s.session y).state = .running ∧ (s.session y).phase = some .waitingClear)) :
    (s.statusToSession p d).session y = s.session y := by
  by_cases e : y = stationOf p
  · rw [State.statusToSession_of_not_clearing (by rwa [← e])]
  · exact (edited_statusToSession s p d).session_eq e

theorem State.statusToSession_phase (s : State) (p : Port) (d : DeviceStatus) (y : Station) :
    ((s.statusToSession p d).session y).phase = (s.session y).phase
      ∨ ((s.statusToSession p d).session y).phase = some .active := by
  by_cases e : y = stationOf p
  · rw [e]
    unfold State.statusToSession
    dsimp only
    split
    · split
      · split
        · rw [State.noteProgress_session, State.modifySession_eq, State.session_setSession]
          exact .inr rfl
        · exact .inl rfl
      · exact .inl rfl
    · exact .inl rfl
  · rw [(edited_statusToSession s p d).session_eq e]
    exact .inl rfl

theorem State.mem_putProgress {i : Item} (hi : i.key ≠ some (.progress st)) (h : i ∈ s.outbound) :
    i ∈ (s.putProgress st).outbound := by
  unfold State.putProgress
  dsimp only
  split
  · exact mem_coalesce_of_mem _ _ _ _ _ h hi
  · exact h

theorem State.mem_noteProgress {i : Item} (hi : i.key ≠ some (.progress st)) (h : i ∈ s.outbound) :
    i ∈ (s.noteProgress st).outbound := by
  unfold State.noteProgress
  split
  · exact State.mem_putProgress hi h
  · exact State.mem_putProgress hi h
  · exact h
  · exact h

theorem State.mem_statusToSession {d : DeviceStatus} {i : Item} (hi : i.key ≠ some (.progress (stationOf p)))
    (h : i ∈ s.outbound) : i ∈ (s.statusToSession p d).outbound := by
  unfold State.statusToSession
  dsimp only
  split
  · split
    · split
      · exact State.mem_noteProgress hi h
      · exact h
    · exact h
  · exact h

/-! ### The command confirmed -/

/-- A device's record once the answer of a POLL has confirmed its command. -/
def Device.confirmed (d : Device) (a : Answer) (q : Queued) (rest : List Queued) : Device :=
  { d with
    state := d.state.afterTaking q.command
    status := some a.status
    missRun := 0
    batchToggle := a.batch
    queue := d.follower.toList ++ rest
    follower := none
    inCarriage := false
    commandToggle := !d.commandToggle }

/-- The state in which a command's requester is told that it was taken. -/
def State.confirmed (s : State) (f : Flight) (a : Answer) (q : Queued) (rest : List Queued) : State :=
  (s.heard f a).headOff f.port q rest

theorem State.confirmed_device : (s.confirmed f a q rest).device f.port = (s.device f.port).confirmed a q rest := by
  rw [State.confirmed, State.headOff_device, State.heard_device]
  rfl

theorem edited_confirmed (s : State) (f : Flight) (a : Answer) (q : Queued) (rest : List Queued) :
    Edited (.device f.port) (s.heard f a) (s.confirmed f a q rest) := edited_headOff _ _ _ _

theorem State.confirmed_device_of_ne {y : Port} (h : y ≠ f.port) :
    (s.confirmed f a q rest).device y = s.device y := by
  rw [(edited_confirmed s f a q rest).device_eq h, State.heard_device_of_ne _ _ _ h]

theorem State.confirmed_session (y : Station) : (s.confirmed f a q rest).session y = s.session y := by
  rw [(edited_confirmed s f a q rest).session_eq not_false, State.heard_session]

theorem State.confirmed_counter : (s.confirmed f a q rest).counter = s.counter := by
  rw [((edited_confirmed s f a q rest).counter_eq not_false).1, State.heard_counter]

theorem State.confirmed_outstanding (y : Station) : (s.confirmed f a q rest).outstanding y = s.outstanding y := by
  rw [State.confirmed, State.headOff_outstanding, State.heard_outstanding]

theorem State.sameStore_confirmed : SameStore s (s.confirmed f a q rest) :=
  (s.sameStore_heard f a).trans (edited_confirmed s f a q rest).untouched.sameStore

theorem State.confirmed_tick : (s.confirmed f a q rest).tick = s.tick := by
  rw [(edited_confirmed s f a q rest).untouched.tick, State.heard_tick]

theorem State.confirmed_textOwed (y : Station) :
    (s.confirmed f a q rest).textOwed[y.val] = s.textOwed[y.val] := by
  rw [(edited_confirmed s f a q rest).textOwed_eq not_false not_false]
  exact congrArg (fun v : Vector (Option OwedText) 8 => v[y.val]) (s.heard_textOwed f a)

theorem State.confirmed_deadlineOf {o : Owner} (h : o ≠ .device f.port) (k : DeadlineKind) :
    (s.confirmed f a q rest).deadlineOf o k = s.deadlineOf o k := by
  rw [(edited_confirmed s f a q rest).deadlineOf_eq (o := o), State.heard_deadlineOf]
  cases o <;> simp_all [Scope.device, Scope.owner]

theorem State.endStarting_device (x : Port) : (s.endStarting st).device x = s.device x :=
  congrArg (fun v : Vector Device 16 => v[x.val]) (s.endStarting_devices st)

section Told

variable {purpose : Purpose} (hq : q.requester = .session st (s.session st).serial purpose)
include hq

/-- A setup command taken: STARTING ends with the last of them (R10). -/
theorem State.tellRequester_setup (h : (s.session st).awaits .setup) (p : Port) (hp : purpose = .setup) :
    s.tellRequester p q = if ((s.session st).waitDone p q.command.cls).waits = [] then
        (s.setSession st ((s.session st).waitDone p q.command.cls)).endStarting st
      else s.setSession st ((s.session st).waitDone p q.command.cls) := by
  obtain ⟨-, running, starting⟩ := h.resolve_right fun c => by cases c.1
  rw [State.tellRequester_session hq, hp, State.sessionTold_setup running starting]

/-- A wind-down command taken: ENDING may be complete (R21). -/
theorem State.tellRequester_windDown (h : (s.session st).awaits .windDown) (p : Port) (hp : purpose = .windDown) :
    s.tellRequester p q = (s.setSession st ((s.session st).waitDone p q.command.cls)).tryComplete st := by
  obtain ⟨-, ending⟩ := h.resolve_left fun c => by cases c.1
  rw [State.tellRequester_session hq, hp, State.sessionTold_windDown ending]

end Told

theorem Session.awaits_setup_or_windDown {r : Session} {purpose : Purpose} (h : r.awaits purpose) :
    purpose = .setup ∨ purpose = .windDown := h.imp And.left And.left

/-- Telling the requester hands its devices back at most. -/
theorem handed_tellRequester (s : State) (p x : Port) (q : Queued) (hc : (s.device x).inCarriage = false) :
    Handed (s.device x) ((s.tellRequester p q).device x) := by
  have done : ∀ (u : State) (st : Station), u.device x = s.device x → Handed (s.device x) ((u.tryComplete st).device x) :=
    fun u st same => by
      unfold State.tryComplete
      split
      · rw [← same]
        exact handed_completeEnding u st x (by rwa [same])
      · rw [same]
        exact .refl _
  by_cases told : ∃ st purpose, q.requester = .session st (s.session st).serial purpose ∧ (s.session st).awaits purpose
  · obtain ⟨st, purpose, hq, awaits⟩ := told
    rcases Session.awaits_setup_or_windDown awaits with hp | hp
    · rw [State.tellRequester_setup hq (hp ▸ awaits) p hp]
      split
      · rw [State.endStarting_device]
        exact .refl _
      · exact .refl _
    · rw [State.tellRequester_windDown hq (hp ▸ awaits) p hp]
      exact done _ st rfl
  · rw [State.tellRequester_stale fun st purpose h => told ⟨st, purpose, h⟩]
    exact .refl _

theorem edited_tellRequester_stations (s : State) (p : Port) (q : Queued) :
    Edited .stations s (s.tellRequester p q) := by
  cases h : q.requester with
  | session st serial purpose =>
    rw [State.tellRequester_session h]
    exact (edited_sessionTold s st _ _ _ _).mono (Scope.at_within_stations st)
  | counter => unfold State.tellRequester; rw [h]; exact .refl
  | ports => unfold State.tellRequester; rw [h]; exact .refl

/-- The exchange of a POLL that confirms its command, with a status that agrees with the state reached. -/
theorem State.leaves_of_confirmed (hr : f.request = .poll) (hj : (s.device f.port).state.joined = true)
    (carried : f.carried.isSome = true) (hc : a.contents = .events []) (inCarriage : (s.device f.port).inCarriage = true)
    (queue : (s.device f.port).queue = q :: rest) (taken : a.taken = true)
    (agree : ((s.device f.port).confirmed a q rest).dozeDisagrees a.status = false) :
    s.Leaves f a (((s.confirmed f a q rest).tellRequester f.port q).statusToSession f.port a.status) := by
  have record : ((s.heard f a).device f.port).queue = q :: rest := by
    rw [State.heard_device]
    exact queue
  have handed := handed_tellRequester (s.confirmed f a q rest) f.port f.port q (by rw [State.confirmed_device]; rfl)
  rw [State.confirmed_device] at handed
  have joined : ((s.device f.port).confirmed a q rest).state.joined = true := by
    show ((s.device f.port).state.afterTaking q.command).joined = true
    unfold PortState.afterTaking
    split
    · rfl
    · split
      · rfl
      · exact hj
  have outcome := State.outcome_of_command hr hj carried hc inCarriage
  rw [taken, if_pos rfl, State.commandTaken_eq record] at outcome
  have left := State.leaves_of_outcome hr outcome
  rwa [show (s.heard f a).headOff f.port q rest = s.confirmed f a q rest from rfl, State.statusChecks_agree] at left
  · rw [handed.dozeDisagrees, agree]
  · rw [handed.joined, joined]

end Sys2Proof.Machine
end

section
/-! PROOFS. What a command confirmed, or refused, leaves (R10, R21, R113, R141). -/

namespace Sys2Proof.Machine

variable {s u : State} {st : Station} {p : Port} {f : Flight} {a : Answer} {q : Queued} {rest : List Queued}

/-! ### The requester told, by what it still waits on -/

/-- A session that waits on a command is not held in WAITING-CLEAR. -/
theorem Session.awaits_not_clearing {r : Session} {purpose : Purpose} (awaits : r.awaits purpose) :
    ¬(r.state = .running ∧ r.phase = some .waitingClear) := by
  rintro ⟨running, clearing⟩
  rcases awaits with ⟨-, -, starting⟩ | ⟨-, ending⟩
  · rw [clearing] at starting
    cases starting
  · rw [running] at ending
    cases ending

section Confirmed

variable {purpose : Purpose} (hq : q.requester = .session st (s.session st).serial purpose)
  (awaits : (s.session st).awaits purpose)
include hq awaits

/-- More commands to come: the wait is taken off the record, and nothing else changes. -/
theorem State.tellRequester_more (more : ((s.session st).waitDone p q.command.cls).waits ≠ []) :
    s.tellRequester p q = s.setSession st ((s.session st).waitDone p q.command.cls) := by
  rcases Session.awaits_setup_or_windDown awaits with hp | hp
  · rw [State.tellRequester_setup hq (hp ▸ awaits) p hp, if_neg more]
  · rw [State.tellRequester_windDown hq (hp ▸ awaits) p hp]
    refine if_neg ?_
    rw [State.endingComplete_iff, State.session_setSession]
    exact fun c => more c.2.1

/-- The last setup command. -/
theorem State.tellRequester_starts (last : ((s.session st).waitDone p q.command.cls).waits = []) (hp : purpose = .setup) :
    s.tellRequester p q = (s.setSession st ((s.session st).waitDone p q.command.cls)).endStarting st := by
  rw [State.tellRequester_setup hq (hp ▸ awaits) p hp, if_pos last]

/-- The last wind-down command, with no result left. -/
theorem State.tellRequester_completes (last : ((s.session st).waitDone p q.command.cls).waits = [])
    (hp : purpose = .windDown) (noResult : (s.session st).pendingResult = none) (free : s.outstanding st = false) :
    s.tellRequester p q = (s.setSession st ((s.session st).waitDone p q.command.cls)).completeEnding st := by
  have ending : (s.session st).state = .ending := by
    rw [hp] at awaits
    rcases awaits with c | c
    · cases c.1
    · exact c.2
  rw [State.tellRequester_windDown hq (hp ▸ awaits) p hp]
  refine if_pos ?_
  rw [State.endingComplete_iff, State.session_setSession]
  exact ⟨ending, last, noResult, free⟩

end Confirmed

theorem State.deviceFault_commandToggle (c : LastFault) :
    ((s.deviceFault p c).device p).commandToggle = (s.device p).commandToggle := by
  rw [State.deviceFault_device]
  rcases Nat.lt_or_ge (s.device p).restartCount s.settings.restartLimit with h | h
  · rw [(State.faulted_below c h).1]
    rfl
  · rw [State.faulted_at_limit c h]
    rfl

theorem State.owedText_idle (hc : s.counter = .opened) (h : s.textOwed[st.val] = some .idle) :
    s.owedText st = some s.idleTexts[st.val] := by
  unfold State.owedText
  rw [h, hc]
  rfl

theorem State.owedText_closed (hc : s.counter = .orphaned) (h : s.textOwed[st.val] = some .closed) :
    s.owedText st = some s.closedText := by
  unfold State.owedText
  rw [h, hc]

theorem PortState.afterTaking_engaged (c : DeviceCommand) : PortState.engaged.afterTaking c = .engaged := by
  simp [PortState.afterTaking]

theorem State.confirmed_engaged {x : Port} (h : (s.device x).state = .engaged) :
    ((s.confirmed f a q rest).device x).state = .engaged := by
  by_cases e : x = f.port
  · rw [e, State.confirmed_device, Device.confirmed, ← e, h, PortState.afterTaking_engaged]
  · rw [State.confirmed_device_of_ne e, h]

theorem State.mem_confirmed (moved : (s.device f.port).state.afterTaking q.command ≠ (s.device f.port).state)
    (fresh : ∀ x ∈ s.outbound, x.key ≠ some (.deviceChange f.port)) :
    .deviceChange f.port (s.device f.port).state ((s.device f.port).state.afterTaking q.command)
      ((s.device f.port).state.afterTaking q.command).powerReason 1 ∈ (s.confirmed f a q rest).outbound := by
  have state : (((s.heard f a).setDevice f.port (((s.heard f a).device f.port).headTaken rest)).device f.port).state =
      (s.device f.port).state := by
    rw [State.device_setDevice, State.heard_device]
    rfl
  have placed := State.mem_powerTaken (s := (s.heard f a).setDevice f.port (((s.heard f a).device f.port).headTaken rest))
    (p := f.port) (c := q.command) (by rwa [state]) (s.heard_fresh f a fresh)
  rwa [state] at placed

theorem State.confirmed_owedText {x : Text} (h : s.owedText st = some x) :
    (s.confirmed f a q rest).owedText st = some x := by
  obtain ⟨-, idle, closed, -⟩ := State.sameStore_confirmed (s := s) (f := f) (a := a) (q := q) (rest := rest)
  rw [← h]
  unfold State.owedText State.idleText
  rw [State.confirmed_textOwed, State.confirmed_counter, idle, closed]

/-! ### The exchange, by what the answer says of the command -/

/-- The state once the requester of a confirmed command was told, before the status reaches a session. -/
def State.told (s : State) (f : Flight) (a : Answer) (q : Queued) (rest : List Queued) : State :=
  (s.confirmed f a q rest).tellRequester f.port q

/-- The record of a session that waits on a confirmed command no longer. -/
def Session.relieved (r : Session) (f : Flight) (q : Queued) : Session := r.waitDone f.port q.command.cls

theorem State.told_counter : (s.told f a q rest).counter = s.counter := by
  rw [State.told, ((edited_tellRequester_stations _ _ _).counter_eq not_false).1, State.confirmed_counter]

section Told

variable {purpose : Purpose} (hq : q.requester = .session st (s.session st).serial purpose)
  (awaits : (s.session st).awaits purpose)
include hq awaits

theorem State.told_more (more : ((s.session st).relieved f q).waits ≠ []) :
    s.told f a q rest = (s.confirmed f a q rest).setSession st ((s.session st).relieved f q) := by
  rw [← State.confirmed_session (f := f) (a := a) (q := q) (rest := rest)] at hq awaits more ⊢
  exact State.tellRequester_more hq awaits more

theorem State.told_starts (last : ((s.session st).relieved f q).waits = []) (hp : purpose = .setup) :
    s.told f a q rest = ((s.confirmed f a q rest).setSession st ((s.session st).relieved f q)).endStarting st := by
  rw [← State.confirmed_session (f := f) (a := a) (q := q) (rest := rest)] at hq awaits last ⊢
  exact State.tellRequester_starts hq awaits last hp

theorem State.told_completes (last : ((s.session st).relieved f q).waits = []) (hp : purpose = .windDown)
    (noResult : (s.session st).pendingResult = none) (free : s.outstanding st = false) :
    s.told f a q rest = ((s.confirmed f a q rest).setSession st ((s.session st).relieved f q)).completeEnding st := by
  rw [← State.confirmed_session (f := f) (a := a) (q := q) (rest := rest)] at hq awaits last noResult ⊢
  exact State.tellRequester_completes hq awaits last hp noResult (by rw [State.confirmed_outstanding, free])

end Told

theorem State.told_status_counter :
    ((s.told f a q rest).statusToSession f.port a.status).counter = s.counter := by
  rw [((edited_statusToSession _ _ _).counter_eq not_false).1, State.told_counter]

section Answered

variable (left : s.Leaves f a ((s.told f a q rest).statusToSession f.port a.status))
include left

theorem State.Leaves.told_device (y : Port) :
    ((s.endExchange f (some a)).whole s).device y = (s.told f a q rest).device y := by
  obtain ⟨r, o, e⟩ := (s.told f a q rest).statusToSession_spec f.port a.status
  rw [left.device, e]
  rfl

theorem State.Leaves.told_textOwed : ((s.endExchange f (some a)).whole s).textOwed = (s.told f a q rest).textOwed := by
  obtain ⟨r, o, e⟩ := (s.told f a q rest).statusToSession_spec f.port a.status
  rw [left.textOwed, e]

/-- What the telling places stands, unless it is a PROGRESS of the device's station. -/
theorem State.Leaves.told_shows {i : Item} (hi : i.key ≠ some (.progress (stationOf f.port)))
    (h : i ∈ (s.told f a q rest).outbound) : ((s.endExchange f (some a)).whole s).shows i :=
  left.shows State.told_status_counter (State.mem_statusToSession hi h)

variable {purpose : Purpose} (hq : q.requester = .session st (s.session st).serial purpose)
  (awaits : (s.session st).awaits purpose)
include hq awaits

/-- More commands to come: the session waits on one fewer. -/
theorem State.Leaves.told_more (more : ((s.session st).relieved f q).waits ≠ []) :
    ((s.endExchange f (some a)).whole s).session st = (s.session st).relieved f q
      ∧ ((s.endExchange f (some a)).whole s).device f.port = (s.device f.port).confirmed a q rest := by
  have tells := State.told_more (a := a) (rest := rest) hq awaits more
  refine ⟨?_, ?_⟩
  · rw [left.session, tells, State.statusToSession_session, State.session_setSession]
    rw [State.session_setSession]
    exact Session.awaits_not_clearing awaits
  · rw [left.told_device, tells]
    exact State.confirmed_device

/-- The last setup command: the step waits for the slot or the keys to clear, or is ACTIVE (R10, R11). -/
theorem State.Leaves.told_starts (last : ((s.session st).relieved f q).waits = []) (hp : purpose = .setup)
    (step : (s.session st).step? ≠ none) :
    ((s.endExchange f (some a)).whole s).device f.port = (s.device f.port).confirmed a q rest
      ∧ ((((s.endExchange f (some a)).whole s).session st).phase = some .waitingClear
        ∨ (((s.endExchange f (some a)).whole s).session st).phase = some .active) := by
  have tells := State.told_starts (a := a) (rest := rest) hq awaits last hp
  obtain ⟨x, hx⟩ := Option.ne_none_iff_exists'.1 step
  have begun := State.endStarting_session (s := (s.confirmed f a q rest).setSession st ((s.session st).relieved f q))
    (st := st) (x := x) (by rw [State.session_setSession]; exact hx)
  rw [← tells] at begun
  refine ⟨?_, ?_⟩
  · rw [left.told_device, tells, State.endStarting_device]
    exact State.confirmed_device
  · rw [left.session]
    rcases (s.told f a q rest).statusToSession_phase f.port a.status st with e | e
    · rw [e, begun]
      unfold State.phaseAfterStarting
      split
      · exact .inl rfl
      · exact .inr rfl
    · exact .inr e

section Completes

variable (last : ((s.session st).relieved f q).waits = []) (hp : purpose = .windDown)
  (noResult : (s.session st).pendingResult = none) (free : s.outstanding st = false)
include last hp noResult free

/-- The last wind-down command with no result left: the session is IDLE, and its SESSION-END is placed (R21). -/
theorem State.Leaves.told_completes :
    ((s.endExchange f (some a)).whole s).session st = ((s.session st).relieved f q).ended
      ∧ ∀ tag c, (s.session st).tag = some tag → (s.session st).endCause = some c →
        ((s.endExchange f (some a)).whole s).shows (.sessionEnd st tag c) := by
  have tells := State.told_completes (a := a) (rest := rest) hq awaits last hp noResult free
  refine ⟨?_, fun tag c ht hc => left.told_shows (by simp [Item.key]) ?_⟩
  · rw [left.session, tells, State.statusToSession_session, State.completeEnding_session, State.session_setSession]
    rw [State.completeEnding_session]
    exact fun c => by cases c.1
  · rw [tells]
    exact State.mem_completeEnding (by rw [State.session_setSession]; exact ht)
      (by rw [State.session_setSession]; exact hc)

/-- The keypad handed back waits for the text its station was owed (R168, R180). -/
theorem State.Leaves.told_awaitsText (engaged : (s.device (keypadOf st)).state = .engaged) :
    ((s.endExchange f (some a)).whole s).textOwed[st.val] = none
      ∧ ∀ x, s.owedText st = some x → ((s.endExchange f (some a)).whole s).awaitsText (keypadOf st) x := by
  have tells := State.told_completes (a := a) (rest := rest) hq awaits last hp noResult free
  refine ⟨?_, fun x hx => ?_⟩
  · have empty : (((s.confirmed f a q rest).setSession st ((s.session st).relieved f q)).completeEnding
        st).textOwed[st.val] = none := by simp [State.completeEnding_textOwed]
    rw [← tells] at empty
    exact (congrArg (fun v : Vector (Option OwedText) 8 => v[st.val]) left.told_textOwed).trans empty
  · unfold State.awaitsText
    rw [left.told_device, tells]
    exact State.completeEnding_awaitsText (State.confirmed_engaged engaged) (State.confirmed_owedText hx)

end Completes

end Answered

/-- A command refused is a fault of its device (R113, R141). -/
theorem State.leaves_of_refused (hr : f.request = .poll) (hj : (s.device f.port).state.joined = true)
    (carried : f.carried.isSome = true) (hc : a.contents = .events []) (inCarriage : (s.device f.port).inCarriage = true)
    (refused : a.taken = false) : s.Leaves f a ((s.heard f a).deviceFault f.port .protocol) := by
  have outcome := State.outcome_of_command hr hj carried hc inCarriage
  rw [refused, if_neg (by decide)] at outcome
  have unjoined : (((s.heard f a).deviceFault f.port .protocol).device f.port).state.joined = false := by
    rw [State.deviceFault_device]
    exact State.faulted_not_joined _
  have left := State.leaves_of_outcome hr outcome
  rwa [State.statusChecks_unjoined unjoined] at left

/-- Settles O47. -/
theorem carriedCommandIsConfirmedOrFaults : Obligations.CarriedCommandIsConfirmedOrFaults := by
  intro s f frame a q rest h hr carried good hc d after d' waits told free inCarriage queue
  have run := exec_of_answered (s := s) (i := .pollAnswer frame) rfl h hr
  rw [good] at run
  obtain ⟨flight, supplies, tick, store⟩ := exchangeFrame s f (some a)
  have joined : (s.device f.port).state.joined = true := PortState.joined_iff.2 free
  refine ⟨fun taken agree => ?_, fun refused => ?_⟩
  · have left : s.Leaves f a ((s.told f a q rest).statusToSession f.port a.status) :=
      State.leaves_of_confirmed hr joined carried hc inCarriage queue taken agree
    refine ⟨_, run, flight, fun untold => ?_, fun st purpose ⟨hq, awaits⟩ => ?_, supplies, left.counter State.told_status_counter,
      tick, store⟩
    · have none : s.told f a q rest = s.confirmed f a q rest :=
        State.tellRequester_stale fun st purpose g => untold st purpose (by rwa [State.confirmed_session] at g)
      refine ⟨(left.told_device _).trans ?_, fun y hy => (left.told_device y).trans ?_, fun quiet => ?_,
        fun moved fresh => left.told_shows (by simp [Item.key]) ?_⟩
      · rw [none]
        exact State.confirmed_device
      · rw [none, State.confirmed_device_of_ne hy]
      · refine sessions_eq_of_session fun y => ?_
        rw [left.session, none, State.statusToSession_of_phase (by rwa [State.confirmed_session]),
          State.confirmed_session]
      · rw [none]
        exact State.mem_confirmed moved fresh
    · refine ⟨left.told_more hq awaits, left.told_starts hq awaits, fun last windDown noResult unsent => ?_,
        fun last windDown noResult unsent engaged => ?_, fun y hy hy' => ?_⟩
      · obtain ⟨ended, shown⟩ := left.told_completes hq awaits last windDown noResult unsent
        rw [ended]
        exact ⟨rfl, rfl, rfl, shown⟩
      · obtain ⟨empty, shown⟩ := left.told_awaitsText hq awaits last windDown noResult unsent engaged
        exact ⟨empty, fun opened idle => shown _ (State.owedText_idle opened idle),
          fun orphaned closed => shown _ (State.owedText_closed orphaned closed)⟩
      · rw [left.session, (edited_statusToSession _ _ _).session_eq hy', State.told, State.tellRequester_session hq,
          (edited_sessionTold _ st _ _ _ _).session_eq hy, State.confirmed_session]
  · have left := State.leaves_of_refused hr joined carried hc inCarriage refused
    obtain ⟨missRun, fault, empty, follower, below, limit⟩ :=
      State.deviceFault_spec (s := s.heard f a) (p := f.port) .protocol
    have toggle := State.deviceFault_commandToggle (s := s.heard f a) (p := f.port) .protocol
    rw [State.heard_device, State.heard_settings] at below limit
    rw [State.heard_device] at toggle
    obtain ⟨others, -⟩ := stationExchangeFrame left (edited_deviceFault (s.heard f a) f.port .protocol)
    rw [← left.device] at missRun fault empty follower below limit toggle
    refine ⟨_, run, flight, fault, empty, follower, missRun, toggle, fun few => ?_, fun many => (limit many).1, others,
      supplies, tick, store⟩
    obtain ⟨state, count, owes, -⟩ := below few
    rw [← left.owes] at owes
    exact ⟨state, count, owes⟩

end Sys2Proof.Machine
end

section
/-! PROOFS. The end of STARTING (R10, R101). -/

namespace Sys2Proof.Machine

variable {s u : State} {st : Station} {p : Port} {f : Flight} {a : Answer} {k : StepKind}

/-! ### The deadlines of a step (R101) -/

theorem State.placeStepDeadlines_eq (s : State) (st : Station) (k : StepKind) (h : k.firstKeyTime = 0) :
    s.placeStepDeadlines st k =
      if !k.isShow && s.settings.warnLead != 0 && s.settings.warnLead < k.time then
        (s.placeDeadline (.session st) .step (k.time * 100)).placeDeadline (.session st) .warn
          ((k.time - s.settings.warnLead) * 100)
      else s.placeDeadline (.session st) .step (k.time * 100) := if_pos h

theorem State.placeStepDeadlines_step (h : k.firstKeyTime = 0) :
    (s.placeStepDeadlines st k).deadlineOf (.session st) .step = some (ahead s.tick (k.time * 100)) := by
  rw [State.placeStepDeadlines_eq _ _ _ h]
  split
  · rw [State.deadlineOf_placeDeadline_of_ne _ _ _ _ _ _ (by simp), State.deadlineOf_placeDeadline]
  · rw [State.deadlineOf_placeDeadline]

theorem State.placeStepDeadlines_warn (h : k.firstKeyTime = 0) (hk : k.isShow = false) (hl : s.settings.warnLead ≠ 0)
    (ht : s.settings.warnLead < k.time) : (s.placeStepDeadlines st k).deadlineOf (.session st) .warn =
      some (ahead s.tick ((k.time - s.settings.warnLead) * 100)) := by
  rw [State.placeStepDeadlines_eq _ _ _ h, if_pos (by simp [hk, hl, ht]), State.deadlineOf_placeDeadline]
  rfl

theorem State.placeStepDeadlines_key (h : k.firstKeyTime = 0) :
    (s.placeStepDeadlines st k).deadlineOf (.session st) .key = s.deadlineOf (.session st) .key := by
  rw [State.placeStepDeadlines_eq _ _ _ h]
  split
  · rw [State.deadlineOf_placeDeadline_of_ne _ _ _ _ _ _ (by simp),
      State.deadlineOf_placeDeadline_of_ne _ _ _ _ _ _ (by simp)]
  · rw [State.deadlineOf_placeDeadline_of_ne _ _ _ _ _ _ (by simp)]

theorem State.endStarting_deadlineOf {x : StepRecord} (h : (s.session st).step? = some x) (c : DeadlineKind) :
    (s.endStarting st).deadlineOf (.session st) c = (s.placeStepDeadlines st x.kind).deadlineOf (.session st) c := by
  rw [State.endStarting_of_step h, State.noteProgress_deadlineOf]
  rfl

/-! ### The blocking condition (R10, R11) -/

/-- A step whose phase follows the status in hand is not moved by that status. -/
theorem State.statusToSession_settled {d : DeviceStatus} {x : StepRecord} (hx : (s.session (stationOf p)).step? = some x)
    (h : (s.session (stationOf p)).phase = some .waitingClear → blocks x.kind d = true) : s.statusToSession p d = s := by
  unfold State.statusToSession
  dsimp only
  split
  · rename_i clearing
    rw [hx]
    exact if_neg fun c => by simp [h clearing.2] at c
  · rfl

theorem State.blocked_card {attempts time : Nat} {d : DeviceStatus} (h : (s.device (readerOf st)).status = some d) :
    s.blocked st (.card attempts time) = d.cardPresent := by
  simp [State.blocked, blockingPort, blocks, h]

/-- Settles O48. -/
theorem lastSetupCommandEndsStarting : Obligations.LastSetupCommandEndsStarting := by
  intro s f frame a st attempts time serial rest h hp hr carried good hc taken awake engaged inCarriage queue current
    running starting step waiting
  have run := exec_of_answered (s := s) (i := .pollAnswer frame) rfl h hr
  rw [good] at run
  obtain ⟨flight, supplies, tick, store⟩ := exchangeFrame s f (some a)
  rw [← hp] at engaged inCarriage queue
  have state : ((s.device f.port).confirmed a ⟨.intakeOn, .session st serial .setup⟩ rest).state = .engaged := by
    rw [Device.confirmed, engaged]
    rfl
  have left := State.leaves_of_confirmed hr (by rw [engaged]; rfl) carried hc inCarriage queue taken
    (Device.dozeDisagrees_engaged state awake)
  generalize hw : s.confirmed f a ⟨.intakeOn, .session st serial .setup⟩ rest = w at left
  have session : ∀ y, w.session y = s.session y := fun y => by rw [← hw, State.confirmed_session]
  have last : (w.session st).waitDone f.port DeviceCommand.intakeOn.cls = { s.session st with waits := [] } := by
    rw [session, Session.waitDone, waiting, hp]
    simp [DeviceCommand.cls]
  have tells := State.tellRequester_starts (s := w) (st := st) (q := ⟨.intakeOn, .session st serial .setup⟩)
    (purpose := .setup) (by rw [session, current]) (by rw [session]; exact .inl ⟨rfl, running, starting⟩) (p := f.port)
    (by rw [last]) rfl
  rw [last] at tells
  generalize hv : w.setSession st { s.session st with waits := [] } = v at tells
  have record : v.session st = { s.session st with waits := [] } := by rw [← hv, State.session_setSession]
  have steps : (v.session st).step? = some ⟨[], .card attempts time⟩ := by rw [record]; exact step
  have status : (v.device (readerOf st)).status = some a.status := by
    rw [← hv, ← hw, ← hp]
    exact congrArg Device.status State.confirmed_device
  have begun := State.endStarting_session steps
  rw [State.phaseAfterStarting, State.blocked_card status, record] at begun
  have settled : (v.endStarting st).statusToSession f.port a.status = v.endStarting st := by
    refine State.statusToSession_settled (x := ⟨[], .card attempts time⟩) ?_ fun clearing => ?_
    · rw [hp, stationOf_readerOf, begun]
      exact step
    · rw [hp, stationOf_readerOf, begun] at clearing
      by_cases present : a.status.cardPresent = true
      · exact present
      · rw [if_neg present] at clearing
        cases clearing
  rw [tells, settled] at left
  have kept : ∀ c, v.deadlineOf (.session st) c = s.deadlineOf (.session st) c := fun c => by
    rw [← hv, ← hw]
    exact State.confirmed_deadlineOf (by simp) c
  have clock : v.tick = s.tick := by
    rw [← hv, ← hw]
    exact State.confirmed_tick
  have settings : v.settings = s.settings := by
    rw [← hv, ← hw]
    exact State.sameStore_confirmed.1
  have edit : Edited (.at st) w (v.endStarting st) := by
    rw [← hv]
    exact Edited.trans (.session st { s.session st with waits := [] } .refl rfl) (edited_endStarting _ st)
  have counter : (v.endStarting st).counter = s.counter := by
    rw [(edit.counter_eq not_false).1, ← hw, State.confirmed_counter]
  refine ⟨_, run, ?_, ?_, fun lead short => ?_, ?_, fun y hy => ?_, supplies, left.counter counter, tick, store⟩
  · rw [left.session, begun]
  · rw [left.deadlineOf (by simp), State.endStarting_deadlineOf steps, State.placeStepDeadlines_step rfl, clock]
    rfl
  · rw [left.deadlineOf (by simp), State.endStarting_deadlineOf steps, State.placeStepDeadlines_warn rfl rfl
      (by rwa [settings]) (by rwa [settings]), clock, settings]
    rfl
  · rw [left.deadlineOf (by simp), State.endStarting_deadlineOf steps, State.placeStepDeadlines_key rfl, kept]
  · rw [left.session, edit.session_eq hy, session]

end Sys2Proof.Machine
end

section
/-! PROOFS. One reply of each command, ahead of its notices (R186, R187). -/

namespace Sys2Proof.Machine

variable {s t : State} {f : Frame}

/-- Nothing stands in the outbound queue, and the transmitter is busy. -/
structure State.Unsent (s : State) : Prop where
  outbound : s.outbound = []
  busy : s.sending.isSome = true

/-- One reply stands in the outbound queue, ahead of notices alone, and the transmitter is busy. -/
structure State.RepliedFirst (s : State) : Prop where
  queue : ∃ q k o a l rest, s.outbound = .reply q k o a l :: rest ∧ ∀ y ∈ rest, y.isReply = false
  busy : s.sending.isSome = true

theorem State.Unsent.same (h : s.Unsent) (ho : t.outbound = s.outbound) (hs : t.sending = s.sending) : t.Unsent :=
  ⟨ho.trans h.outbound, hs ▸ h.busy⟩

theorem State.RepliedFirst.same (h : s.RepliedFirst) (ho : t.outbound = s.outbound) (hs : t.sending = s.sending) :
    t.RepliedFirst := ⟨ho ▸ h.queue, hs ▸ h.busy⟩

/-- What follows the reply is notices. -/
theorem State.RepliedFirst.edit {A : Scope} (h : s.RepliedFirst) (e : Edited A s t) : t.RepliedFirst := by
  obtain ⟨q, k, o, a, l, rest, first, notices⟩ := h.queue
  obtain ⟨rest', first', notices'⟩ := e.outbound_cons rfl first notices
  exact ⟨⟨q, k, o, a, l, rest', first', notices'⟩, e.untouched.sending ▸ h.busy⟩

theorem State.Unsent.answer (h : s.Unsent) (f : Frame) (o : ReplyOutcome) (a : Bool) (data : List Byte) :
    (s.answer f o a data).RepliedFirst := by
  have placed : (s.answer f o a data).outbound = [.reply f.sequence (f.kind ||| 0x80) o a data] := by
    show s.outbound ++ _ = _
    rw [h.outbound]
    rfl
  exact ⟨⟨_, _, _, _, _, [], placed, by simp⟩, h.busy⟩

theorem State.Unsent.refuse (h : s.Unsent) (f : Frame) (o : ReplyOutcome) : (s.refuse f o).RepliedFirst :=
  h.answer f o false []

theorem State.RepliedFirst.whole (h : s.RepliedFirst) (before : State) : (s.whole before).RepliedFirst := by
  have passed := h.edit (edited_passZeroSettle (A := .all) s before trivial)
  rwa [State.whole, State.beginNext_of_sending _ passed.busy]

theorem State.RepliedFirst.enterTrial (h : s.RepliedFirst) (st : Station) (reason : SupplyReason) :
    (s.enterTrial st reason).RepliedFirst := by
  have trial : (s.modifySupply st fun r => { r with state := .trial, overRun := 0 }).RepliedFirst := h.same rfl rfl
  unfold State.enterTrial
  exact ((trial.edit (edited_setDraw _ st false)).edit (A := .all)
    (edited_placeDeadline _ (.supply st) .supply _ trivial)).edit (A := .all) (edited_noteSupply _ st _ _)

theorem State.RepliedFirst.putIdleText (h : s.RepliedFirst) (st : Station) (x : Text) :
    (s.putIdleText st x).RepliedFirst := by
  have stored : ({ s with idleTexts := s.idleTexts.set st.val x } : State).RepliedFirst := h.same rfl rfl
  unfold State.putIdleText
  dsimp only
  split
  · exact stored.edit (A := .all) (edited_textToFreeKeypad _ st x trivial)
  · exact stored

theorem State.RepliedFirst.putClosedText (h : s.RepliedFirst) (x : Text) : (s.putClosedText x).RepliedFirst := by
  have stored : ({ s with closedText := x } : State).RepliedFirst := h.same rfl rfl
  unfold State.putClosedText
  dsimp only
  split
  · exact stored.edit (A := .all) (edited_forStations fun st s => edited_textToFreeKeypad s st x trivial)
  · exact stored

theorem State.RepliedFirst.putText (h : s.RepliedFirst) (x : Text) (target : TextTarget) :
    (s.putText x target).RepliedFirst := by
  cases target with
  | allStations => exact State.forStations_induct (P := State.RepliedFirst) s h fun st u hu => hu.putIdleText st x
  | station st => exact h.putIdleText st x
  | closed => exact h.putClosedText x

/-- A command taken whose owner places its reply first. -/
theorem repliedFirst_of_taken {owner : State → State} (ht : s.takesNow f) (hs : s.Unsent)
    (g : ∀ u : State, u.Unsent → (owner u).RepliedFirst) (h : commandRow f owner s = .next t) : t.RepliedFirst := by
  rw [commandRow_taken s f owner ht] at h
  cases h
  exact (g _ (hs.same s.takeHead_outbound s.takeHead_sending)).whole s

theorem repliedFirst_withFields {α : Type} {x : Option α} {owner : State → α → State} (ht : s.takesNow f) (hs : s.Unsent)
    (g : ∀ (u : State) (a : α), u.Unsent → (owner u a).RepliedFirst)
    (h : commandRow f (fun s => s.withFields f x (owner s)) s = .next t) : t.RepliedFirst := by
  refine repliedFirst_of_taken ht hs (fun u hu => ?_) h
  cases x with
  | none => exact hu.refuse f _
  | some a => exact g u a hu

/-! ### The owners -/

section Owners

variable (f) (h : s.Unsent)
include h

theorem repliedFirst_openSession (x : OpenRequest) : (s.openSession f x).RepliedFirst := by
  unfold State.openSession
  dsimp only
  split
  · exact h.refuse f _
  · rename_i st _
    split
    · exact h.refuse f _
    · unfold State.takeSession
      have taken : (s.modifySession st fun r => r.taken x.tag x.mode
          (normaliseSteps s.settings.defaultStepTime x.steps).value).Unsent := h.same rfl rfl
      exact ((taken.answer f _ _ _).edit (edited_engageNeeded _ st _)).edit (edited_enterStarting _ st 1)

theorem repliedFirst_cancelSession (x : Byte × Nat) : (s.cancelSession f x).RepliedFirst := by
  unfold State.cancelSession
  split
  · exact h.refuse f _
  · split
    · exact h.refuse f _
    · unfold State.cancelAt
      split
      · exact (h.answer f _ _ _).edit (edited_enterEnding _ _ _)
      · exact (h.answer f _ _ _).edit (edited_modifySession _ _ _)
      · exact h.refuse f _
      · exact h.refuse f _

theorem State.extendDeadlines_unsent (st : Station) (n : Nat) : (s.extendDeadlines st n).Unsent := by
  unfold State.extendDeadlines State.moveWarning
  split
  · exact h
  · split
    · exact h
    · dsimp only
      split
      · exact h.same rfl rfl
      · split
        · exact h.same rfl rfl
        · exact h.same rfl rfl

theorem repliedFirst_extendStep (x : Byte × Nat × Nat) : (s.extendStep f x).RepliedFirst := by
  unfold State.extendStep
  split
  · exact h.refuse f _
  · rename_i st _
    split
    · exact h.refuse f _
    · split
      · exact h.refuse f _
      · unfold State.extendGranted
        have moved := State.extendDeadlines_unsent h st ((s.session st).grant (clamp 1 600 x.2.2).value)
        dsimp only
        refine State.Unsent.answer ?_ f _ _ _
        exact moved.same rfl rfl

theorem repliedFirst_policyLoad (x : LoadRequest) : (s.policyLoad f x).RepliedFirst := by
  unfold State.policyLoad
  dsimp only
  split
  · exact h.answer f _ _ _
  · split
    · exact h.answer f _ _ _
    · refine State.Unsent.answer ?_ f _ _ _
      exact h.same rfl rfl

theorem repliedFirst_policyDrop (x : Digits) : (s.policyDrop f x).RepliedFirst := by
  unfold State.policyDrop
  split
  · exact h.answer f _ _ _
  · split
    · refine State.Unsent.answer ?_ f _ _ _
      exact h.same rfl rfl
    · exact h.answer f _ _ _

theorem repliedFirst_replaceDefault (x : Policy) : (s.replaceDefault f x).RepliedFirst := by
  unfold State.replaceDefault
  dsimp only
  split
  · refine State.Unsent.answer ?_ f _ _ _
    exact h.same rfl rfl
  · exact h.refuse f _

theorem repliedFirst_setDate (x : Byte × Byte) : (s.setDate f x).RepliedFirst := by
  unfold State.setDate
  split
  · exact h.refuse f _
  · refine State.Unsent.answer ?_ f _ _ _
    exact h.same rfl rfl

theorem repliedFirst_deviceInfo (x : Byte) : (s.deviceInfo f x).RepliedFirst := by
  unfold State.deviceInfo
  split
  · exact h.refuse f _
  · exact h.answer f _ _ _

theorem repliedFirst_deviceRelease (x : Byte) : (s.deviceRelease f x).RepliedFirst := by
  unfold State.deviceRelease
  split
  · exact h.refuse f _
  · rename_i p _
    split
    · refine (h.answer f .done false []).edit (A := .all) ?_
      unfold State.releaseHeld
      exact ((edited_modifyDevice _ p _ trivial (Nat.zero_le _)).trans (edited_changePort _ p _ _ trivial)).trans
        (edited_dueNow _ p trivial)
    · exact h.refuse f _

theorem repliedFirst_supplyOff (x : Byte) : (s.supplyOff f x).RepliedFirst := by
  unfold State.supplyOff
  split
  · exact h.refuse f _
  · rename_i st _
    split
    · exact h.answer f _ _ _
    · have switched : (s.supply st).state ≠ .locked →
          ((s.supplyReply f .off (s.supply st).tripCount).switchOff st true .switchedOff).RepliedFirst := fun g =>
        (h.answer f _ _ _).edit (edited_switchOff _ st true .switchedOff g)
      unfold State.offSupply
      dsimp only
      split
      · exact h.answer f _ _ _
      · refine State.Unsent.answer ?_ f _ _ _
        exact h.same rfl rfl
      · rename_i trial
        exact switched (by rw [trial]; decide)
      · rename_i on
        exact switched (by rw [on]; decide)
      · rename_i cooling
        exact switched (by rw [cooling]; decide)

theorem repliedFirst_restoreClosed (st : Station) : (s.restoreClosed f st).RepliedFirst := by
  have closed : (s.modifySupply st fun r => { r with state := .off, tripCount := 0, heldOff := false }).Unsent :=
    h.same rfl rfl
  unfold State.restoreClosed
  dsimp only
  split
  · exact closed.answer f _ _ _
  · exact (closed.answer f _ _ _).edit (A := .all) (edited_noteSupply _ st _ _)

theorem repliedFirst_restoreTrial (st : Station) : (s.restoreTrial f st).RepliedFirst := by
  have restored : (s.modifySupply st fun r => { r with tripCount := 0, heldOff := false }).Unsent := h.same rfl rfl
  have answered := restored.answer f .done false [SupplyState.trial.code, byteOf 0]
  exact answered.enterTrial st .restored

theorem repliedFirst_supplyRestore (x : Byte) : (s.supplyRestore f x).RepliedFirst := by
  unfold State.supplyRestore
  split
  · exact h.refuse f _
  · rename_i st _
    split
    · split
      · exact repliedFirst_restoreClosed f h st
      · exact repliedFirst_restoreTrial f h st
    · split
      · exact repliedFirst_restoreClosed f h st
      · exact repliedFirst_restoreTrial f h st
    · exact h.answer f _ _ _
    · exact h.answer f _ _ _
    · exact h.answer f _ _ _

theorem repliedFirst_dozeCounter (m : Vector WakeFlags 8) : (s.dozeCounter f m).RepliedFirst := by
  have masked : ({ s with wakeMask := m } : State).Unsent := h.same rfl rfl
  unfold State.dozeCounter
  split
  · exact masked.answer f _ _ _
  · split
    · refine (masked.answer f .done false []).edit (A := .devices) ?_
      unfold State.enterLull
      exact (((edited_removeSupervision _ trivial).trans (.owedTexts _ .refl trivial)).trans
        (edited_changeCounter _ _ _ trivial)).trans (edited_dozeDevices _)
    · exact h.refuse f _
  all_goals exact h.refuse f _

theorem repliedFirst_openCounter : (s.openCounter f).RepliedFirst := by
  have answered := h.answer f .done false []
  unfold State.openCounter
  split
  · exact h.refuse f _
  · exact answered
  · exact answered
  · exact answered.edit (edited_wake _ _)
  · exact (answered.edit (edited_enterWaking (A := .all) _ _ _ trivial)).edit (edited_startSupplies _ _)
  · exact answered.edit (edited_reopen _)

theorem repliedFirst_closeCounter : (s.closeCounter f).RepliedFirst := by
  have closed : ((s.answer f .done false []).enterClosed).RepliedFirst := by
    refine (h.answer f .done false []).edit (A := .all) ?_
    unfold State.enterClosed
    exact ((((edited_removeSupervision _ trivial).trans (edited_removeSettle _ trivial)).trans
      (.owedTexts _ .refl trivial)).trans (edited_changeCounter _ _ _ trivial)).trans (edited_closeSupplies _)
  unfold State.closeCounter
  split
  · exact h.refuse f _
  · exact h.answer f _ _ _
  all_goals
    split
    · exact closed
    · exact h.refuse f _

theorem repliedFirst_changeSettings (x : List (Byte × Nat)) : (s.changeSettings f x).RepliedFirst := by
  unfold State.changeSettings
  split
  · exact h.refuse f _
  · split
    · refine State.Unsent.answer ?_ f _ _ _
      exact h.same rfl rfl
    · exact h.refuse f _

theorem repliedFirst_changeText (x : Byte × Text) : (s.changeText f x).RepliedFirst := by
  unfold State.changeText
  split
  · exact h.refuse f _
  · exact (h.answer f _ _ _).putText _ _

theorem repliedFirst_askHubReset (x : ResetKind) : (s.askHubReset f x).RepliedFirst := by
  unfold State.askHubReset
  refine State.Unsent.answer ?_ f _ _ _
  exact h.same rfl rfl

end Owners

/-! ### DIRECT-EXCHANGE, whose reply may wait (R146) -/

theorem repliedFirst_directExchange (h : s.Unsent) (f : Frame) (x : Byte × List Byte) :
    (s.directExchange f x).RepliedFirst ∨ ∃ d, s.directExchange f x = { s with pendingDirect := some d } := by
  unfold State.directExchange
  split
  · exact .inl (h.refuse f _)
  · split
    · exact .inl (h.refuse f _)
    · split
      · exact .inl (h.refuse f _)
      · exact .inr ⟨_, rfl⟩

theorem directExchange_replies {q : Byte} {l : List Byte} (ht : s.takesNow ⟨0x0B, q, l⟩) (hs : s.Unsent)
    (h : exec (.directExchange q l) s = .next t) :
    t.RepliedFirst ∨ (t.outbound = [] ∧ t.pendingDirect.isSome = true) := by
  have unsent : s.takeHead.Unsent := hs.same s.takeHead_outbound s.takeHead_sending
  cases hx : directRequestOf l with
  | none =>
    rw [show exec (.directExchange q l) s = commandRow ⟨0x0B, q, l⟩ (fun s => s.withFields ⟨0x0B, q, l⟩
      (directRequestOf l) (s.directExchange ⟨0x0B, q, l⟩)) s from rfl, hx] at h
    exact .inl (repliedFirst_of_taken ht hs (fun u hu => hu.refuse _ _) h)
  | some x =>
    rw [exec_directExchange _ _ _ hx, commandRow_taken _ _ _ ht] at h
    cases h
    rcases repliedFirst_directExchange unsent ⟨0x0B, q, l⟩ x with first | ⟨d, pending⟩
    · exact .inl (first.whole s)
    · refine .inr ?_
      have same : (s.takeHead.directExchange ⟨0x0B, q, l⟩ x).counter = s.counter := by
        rw [pending]
        exact s.takeHead_counter
      rw [State.whole_of_same _ _ same, pending, State.beginNext_of_sending]
      · exact ⟨unsent.outbound, rfl⟩
      · exact unsent.busy

/-- Settles O3. -/
theorem eachCommandRepliesOnceBeforeItsNotices : Obligations.EachCommandRepliesOnceBeforeItsNotices := by
  intro i f s t hf wellFormed ht empty busy h
  have hs : s.Unsent := ⟨empty, busy⟩
  have first : t.RepliedFirst → (∃ x rest, t.outbound = x :: rest ∧ x.isReply = true ∧ ∀ y ∈ rest, y.isReply = false)
      ∨ (t.outbound = [] ∧ t.pendingDirect.isSome = true) := fun g => by
    obtain ⟨q, k, o, a, l, rest, queue, notices⟩ := g.queue
    exact .inl ⟨_, rest, queue, rfl, notices⟩
  cases i with
  | openSession q l =>
    cases hf
    exact first (repliedFirst_withFields ht hs (fun u a hu => repliedFirst_openSession _ hu a) h)
  | cancelSession q l =>
    cases hf
    exact first (repliedFirst_withFields ht hs (fun u a hu => repliedFirst_cancelSession _ hu a) h)
  | extendStep q l =>
    cases hf
    exact first (repliedFirst_withFields ht hs (fun u a hu => repliedFirst_extendStep _ hu a) h)
  | policyLoad q l =>
    cases hf
    exact first (repliedFirst_withFields ht hs (fun u a hu => repliedFirst_policyLoad _ hu a) h)
  | policyDrop q l =>
    cases hf
    exact first (repliedFirst_withFields ht hs (fun u a hu => repliedFirst_policyDrop _ hu a) h)
  | policyList q l =>
    cases hf
    exact first (repliedFirst_withFields (owner := fun s => s.policyList _) ht hs (fun u a hu => hu.answer _ _ _ _) h)
  | defaultPolicy q l =>
    cases hf
    exact first (repliedFirst_withFields ht hs (fun u a hu => repliedFirst_replaceDefault _ hu a) h)
  | setDate q l =>
    cases hf
    exact first (repliedFirst_withFields ht hs (fun u a hu => repliedFirst_setDate _ hu a) h)
  | deviceInfo q l =>
    cases hf
    exact first (repliedFirst_withFields ht hs (fun u a hu => repliedFirst_deviceInfo _ hu a) h)
  | deviceRelease q l =>
    cases hf
    exact first (repliedFirst_withFields ht hs (fun u a hu => repliedFirst_deviceRelease _ hu a) h)
  | directExchange q l =>
    cases hf
    exact (directExchange_replies ht hs h).elim first .inr
  | supplyOff q l =>
    cases hf
    exact first (repliedFirst_withFields ht hs (fun u a hu => repliedFirst_supplyOff _ hu a) h)
  | supplyRestore q l =>
    cases hf
    exact first (repliedFirst_withFields ht hs (fun u a hu => repliedFirst_supplyRestore _ hu a) h)
  | dozeCounter q l =>
    cases hf
    exact first (repliedFirst_withFields ht hs (fun u a hu => repliedFirst_dozeCounter _ hu a) h)
  | openCounter q l =>
    cases hf
    exact first (repliedFirst_withFields (owner := fun s _ => s.openCounter _) ht hs
      (fun u _ hu => repliedFirst_openCounter _ hu) h)
  | closeCounter q l =>
    cases hf
    exact first (repliedFirst_withFields (owner := fun s _ => s.closeCounter _) ht hs
      (fun u _ hu => repliedFirst_closeCounter _ hu) h)
  | settings q l =>
    cases hf
    exact first (repliedFirst_withFields ht hs (fun u a hu => repliedFirst_changeSettings _ hu a) h)
  | idleText q l =>
    cases hf
    exact first (repliedFirst_withFields ht hs (fun u a hu => repliedFirst_changeText _ hu a) h)
  | status q l =>
    cases hf
    exact first (repliedFirst_withFields (owner := fun s _ => s.answer _ .done false (statusData s)) ht hs
      (fun u _ hu => hu.answer _ _ _ _) h)
  | resetHub q l =>
    cases hf
    exact first (repliedFirst_withFields ht hs (fun u a hu => repliedFirst_askHubReset _ hu a) h)
  | unknownCommandKind k q l =>
    cases hf
    have unnamed : namesCommand k = false := by
      simp only [Instr.wellFormed, Bool.and_eq_true, Bool.not_eq_true'] at wellFormed
      exact wellFormed.1
    rw [exec_unknownCommandKind unnamed] at h
    exact first (repliedFirst_of_taken ht hs (fun u hu => hu.refuse _ _) h)
  | _ => cases hf

end Sys2Proof.Machine
end
